-- ==== Sys2Proof/Word.lean ====
section
/-! DEFINITION. The word types of the machine (spec/00_scope.md R5, R8): every value is unsigned. -/

namespace Sys2Proof

/-- `XLEN` = 8: a general register, a timer, a memory byte (R5). -/
abbrev Byte := BitVec 8

/-- `ALEN` = 16: `pc`, `I`, a stack entry; also an instruction word (R5, R7). -/
abbrev Word := BitVec 16

/-- `ADDR_FIELD` = 12: the address immediate `nnn` (R5, R82). -/
abbrev Addr12 := BitVec 12

/-- The 4-bit field `n` (R82). -/
abbrev Nibble := BitVec 4

/-- The number of a general register: the 4-bit fields `x` and `y` (R21, R82). -/
abbrev RegIdx := Fin 16

/-- The flag register `VF` (R22): an ordinary register, number 15. -/
abbrev regF : RegIdx := 15

end Sys2Proof
end

