-- ==== Sys2Proof/Syntax.lean ====
section
/-! DEFINITION. The instructions: one constructor for each of the 35 rows of spec/30_encoding.md R86
(spec/opcode_table.json), in the table's order. Operands are named as in R91. -/

namespace Sys2Proof

/-- The whole instruction set (R2, R86). -/
inductive Instr where
  /-- `0000` NOP (R130). -/
  | nop
  /-- `00E0` CLS (R200). -/
  | cls
  /-- `00EE` RET (R131). -/
  | ret
  /-- `1nnn` JP nnn (R132). -/
  | jp (nnn : Addr12)
  /-- `2nnn` CALL nnn (R133). -/
  | call (nnn : Addr12)
  /-- `3xkk` SE Vx, kk (R134). -/
  | seImm (x : RegIdx) (kk : Byte)
  /-- `4xkk` SNE Vx, kk (R135). -/
  | sneImm (x : RegIdx) (kk : Byte)
  /-- `5xy0` SE Vx, Vy (R136). -/
  | seReg (x y : RegIdx)
  /-- `6xkk` LD Vx, kk (R150). -/
  | ldImm (x : RegIdx) (kk : Byte)
  /-- `7xkk` ADD Vx, kk (R151). -/
  | addImm (x : RegIdx) (kk : Byte)
  /-- `8xy0` LD Vx, Vy (R152). -/
  | ldReg (x y : RegIdx)
  /-- `8xy1` OR Vx, Vy (R153). -/
  | orReg (x y : RegIdx)
  /-- `8xy2` AND Vx, Vy (R154). -/
  | andReg (x y : RegIdx)
  /-- `8xy3` XOR Vx, Vy (R155). -/
  | xorReg (x y : RegIdx)
  /-- `8xy4` ADD Vx, Vy (R156). -/
  | addReg (x y : RegIdx)
  /-- `8xy5` SUB Vx, Vy (R157). -/
  | subReg (x y : RegIdx)
  /-- `8xy6` SHR Vx; `y` is decoded and carries no meaning (R158, R89). -/
  | shr (x y : RegIdx)
  /-- `8xy7` SUBN Vx, Vy (R159). -/
  | subnReg (x y : RegIdx)
  /-- `8xyE` SHL Vx; `y` is decoded and carries no meaning (R160, R89). -/
  | shl (x y : RegIdx)
  /-- `9xy0` SNE Vx, Vy (R137). -/
  | sneReg (x y : RegIdx)
  /-- `Annn` LD I, nnn (R180). -/
  | ldI (nnn : Addr12)
  /-- `Bnnn` JP V0, nnn (R138). -/
  | jpV0 (nnn : Addr12)
  /-- `Cxkk` RND Vx, kk (R161). -/
  | rnd (x : RegIdx) (kk : Byte)
  /-- `Dxyn` DRW Vx, Vy, n (R201). -/
  | drw (x y : RegIdx) (n : Nibble)
  /-- `Ex9E` SKP Vx (R220). -/
  | skp (x : RegIdx)
  /-- `ExA1` SKNP Vx (R221). -/
  | sknp (x : RegIdx)
  /-- `Fx07` LD Vx, DT (R222). -/
  | ldVxDT (x : RegIdx)
  /-- `Fx0A` LD Vx, K (R223). -/
  | ldVxK (x : RegIdx)
  /-- `Fx15` LD DT, Vx (R224). -/
  | ldDTVx (x : RegIdx)
  /-- `Fx18` LD ST, Vx (R225). -/
  | ldSTVx (x : RegIdx)
  /-- `Fx1E` ADD I, Vx (R181). -/
  | addIVx (x : RegIdx)
  /-- `Fx29` LD F, Vx (R182). -/
  | ldFVx (x : RegIdx)
  /-- `Fx33` LD B, Vx (R183). -/
  | ldBVx (x : RegIdx)
  /-- `Fx55` LD [I], Vx (R184). -/
  | storeRegs (x : RegIdx)
  /-- `Fx65` LD Vx, [I] (R185). -/
  | loadRegs (x : RegIdx)
  deriving DecidableEq, Repr

end Sys2Proof
end

