-- ==== Sys2Proof/Decode.lean ====
section
/-! DEFINITION. From words to instructions and back (spec/30_encoding.md). The decoder reads the
table of R86 as it stands there: a mask, a match value and the fields of R82. -/

namespace Sys2Proof

/-- The word of two bytes, the first one the high byte: `mem[a] * 256 + mem[a + 1]` (R81,
spec/20_memory.md R53). -/
def wordOf (hi lo : Byte) : Word := BitVec.ofNat 16 (hi.toNat * 256 + lo.toNat)

/-- The byte of a word at the lower address (R81). -/
def highByte (w : Word) : Byte := w.extractLsb' 8 8

/-- The byte of a word at the higher address (R81). -/
def lowByte (w : Word) : Byte := w.extractLsb' 0 8

/-- Field `x`, `w[11:8]` (R82). -/
def fieldX (w : Word) : RegIdx := (w.extractLsb' 8 4).toFin

/-- Field `y`, `w[7:4]` (R82). -/
def fieldY (w : Word) : RegIdx := (w.extractLsb' 4 4).toFin

/-- Field `n`, `w[3:0]` (R82). -/
def fieldN (w : Word) : Nibble := w.extractLsb' 0 4

/-- Field `kk`, `w[7:0]` (R82). -/
def fieldKK (w : Word) : Byte := w.extractLsb' 0 8

/-- Field `nnn`, `w[11:0]` (R82). -/
def fieldNNN (w : Word) : Addr12 := w.extractLsb' 0 12

/-- One row of the opcode map: the fixed bits, and the instruction made of the fields. -/
structure OpRow where
  mask : Word
  code : Word
  build : Word → Instr

/-- A word selects a row when `w & mask = match` (R85). -/
def OpRow.selects (r : OpRow) (w : Word) : Bool := w &&& r.mask == r.code

/-- Rows 1 to 10 of R86. -/
def opRowsPlain : List OpRow := [
  ⟨0xFFFF, 0x0000, fun _ => .nop⟩,
  ⟨0xFFFF, 0x00E0, fun _ => .cls⟩,
  ⟨0xFFFF, 0x00EE, fun _ => .ret⟩,
  ⟨0xF000, 0x1000, fun w => .jp (fieldNNN w)⟩,
  ⟨0xF000, 0x2000, fun w => .call (fieldNNN w)⟩,
  ⟨0xF000, 0x3000, fun w => .seImm (fieldX w) (fieldKK w)⟩,
  ⟨0xF000, 0x4000, fun w => .sneImm (fieldX w) (fieldKK w)⟩,
  ⟨0xF00F, 0x5000, fun w => .seReg (fieldX w) (fieldY w)⟩,
  ⟨0xF000, 0x6000, fun w => .ldImm (fieldX w) (fieldKK w)⟩,
  ⟨0xF000, 0x7000, fun w => .addImm (fieldX w) (fieldKK w)⟩]

/-- Rows 11 to 20 of R86. -/
def opRowsRegister : List OpRow := [
  ⟨0xF00F, 0x8000, fun w => .ldReg (fieldX w) (fieldY w)⟩,
  ⟨0xF00F, 0x8001, fun w => .orReg (fieldX w) (fieldY w)⟩,
  ⟨0xF00F, 0x8002, fun w => .andReg (fieldX w) (fieldY w)⟩,
  ⟨0xF00F, 0x8003, fun w => .xorReg (fieldX w) (fieldY w)⟩,
  ⟨0xF00F, 0x8004, fun w => .addReg (fieldX w) (fieldY w)⟩,
  ⟨0xF00F, 0x8005, fun w => .subReg (fieldX w) (fieldY w)⟩,
  ⟨0xF00F, 0x8006, fun w => .shr (fieldX w) (fieldY w)⟩,
  ⟨0xF00F, 0x8007, fun w => .subnReg (fieldX w) (fieldY w)⟩,
  ⟨0xF00F, 0x800E, fun w => .shl (fieldX w) (fieldY w)⟩,
  ⟨0xF00F, 0x9000, fun w => .sneReg (fieldX w) (fieldY w)⟩]

/-- Rows 21 to 26 of R86. -/
def opRowsMixed : List OpRow := [
  ⟨0xF000, 0xA000, fun w => .ldI (fieldNNN w)⟩,
  ⟨0xF000, 0xB000, fun w => .jpV0 (fieldNNN w)⟩,
  ⟨0xF000, 0xC000, fun w => .rnd (fieldX w) (fieldKK w)⟩,
  ⟨0xF000, 0xD000, fun w => .drw (fieldX w) (fieldY w) (fieldN w)⟩,
  ⟨0xF0FF, 0xE09E, fun w => .skp (fieldX w)⟩,
  ⟨0xF0FF, 0xE0A1, fun w => .sknp (fieldX w)⟩]

/-- Rows 27 to 35 of R86. -/
def opRowsF : List OpRow := [
  ⟨0xF0FF, 0xF007, fun w => .ldVxDT (fieldX w)⟩,
  ⟨0xF0FF, 0xF00A, fun w => .ldVxK (fieldX w)⟩,
  ⟨0xF0FF, 0xF015, fun w => .ldDTVx (fieldX w)⟩,
  ⟨0xF0FF, 0xF018, fun w => .ldSTVx (fieldX w)⟩,
  ⟨0xF0FF, 0xF01E, fun w => .addIVx (fieldX w)⟩,
  ⟨0xF0FF, 0xF029, fun w => .ldFVx (fieldX w)⟩,
  ⟨0xF0FF, 0xF033, fun w => .ldBVx (fieldX w)⟩,
  ⟨0xF0FF, 0xF055, fun w => .storeRegs (fieldX w)⟩,
  ⟨0xF0FF, 0xF065, fun w => .loadRegs (fieldX w)⟩]

/-- The opcode map, all 35 rows of R86. -/
def opRows : List OpRow := opRowsPlain ++ opRowsRegister ++ opRowsMixed ++ opRowsF

/-- Why bytes are no instruction. -/
inductive DecodeError where
  /-- The word matches no row of R86 (R87). -/
  | unknownOpcode (w : Word)
  /-- Fewer than the two bytes of an instruction (R80). -/
  | truncated
  deriving DecidableEq, Repr

/-- What the decoder answers. -/
inductive Decoded where
  | instr (i : Instr)
  | rejected (e : DecodeError)
  deriving DecidableEq, Repr

/-- Decoding is a pure function of the word (R85); a word that selects no row is illegal (R87). -/
def decodeWord (w : Word) : Decoded :=
  match opRows.find? (fun r => r.selects w) with
  | some r => .instr (r.build w)
  | none => .rejected (.unknownOpcode w)

/-- Decoding of bytes as they lie in memory, lowest address first (R80, R81). -/
def decode : List Byte → Decoded
  | hi :: lo :: _ => decodeWord (wordOf hi lo)
  | _ => .rejected .truncated

/-- A 4-bit field at bits `k + 3 .. k` of a word (R82). -/
def nibbleAt (k : Nat) (f : Nibble) : Word := f.setWidth 16 <<< k

/-- A register number as a field of a word. -/
def regField (r : RegIdx) : Nibble := BitVec.ofFin r

/-- Format `A`: opcode and `nnn` (R83). -/
def encA (op : Nibble) (nnn : Addr12) : Word := nibbleAt 12 op ||| nnn.setWidth 16

/-- Formats `I` and `X`: opcode, `x` and the low byte (R83). -/
def encI (op : Nibble) (x : RegIdx) (kk : Byte) : Word :=
  nibbleAt 12 op ||| nibbleAt 8 (regField x) ||| kk.setWidth 16

/-- Formats `R` and `D`: opcode, `x`, `y` and the last nibble (R83). -/
def encR (op : Nibble) (x y : RegIdx) (n : Nibble) : Word :=
  nibbleAt 12 op ||| nibbleAt 8 (regField x) ||| nibbleAt 4 (regField y) ||| nibbleAt 0 n

/-- The word of an instruction (R83, R86). -/
def encode : Instr → Word
  | .nop => 0x0000
  | .cls => 0x00E0
  | .ret => 0x00EE
  | .jp nnn => encA 0x1 nnn
  | .call nnn => encA 0x2 nnn
  | .seImm x kk => encI 0x3 x kk
  | .sneImm x kk => encI 0x4 x kk
  | .seReg x y => encR 0x5 x y 0x0
  | .ldImm x kk => encI 0x6 x kk
  | .addImm x kk => encI 0x7 x kk
  | .ldReg x y => encR 0x8 x y 0x0
  | .orReg x y => encR 0x8 x y 0x1
  | .andReg x y => encR 0x8 x y 0x2
  | .xorReg x y => encR 0x8 x y 0x3
  | .addReg x y => encR 0x8 x y 0x4
  | .subReg x y => encR 0x8 x y 0x5
  | .shr x y => encR 0x8 x y 0x6
  | .subnReg x y => encR 0x8 x y 0x7
  | .shl x y => encR 0x8 x y 0xE
  | .sneReg x y => encR 0x9 x y 0x0
  | .ldI nnn => encA 0xA nnn
  | .jpV0 nnn => encA 0xB nnn
  | .rnd x kk => encI 0xC x kk
  | .drw x y n => encR 0xD x y n
  | .skp x => encI 0xE x 0x9E
  | .sknp x => encI 0xE x 0xA1
  | .ldVxDT x => encI 0xF x 0x07
  | .ldVxK x => encI 0xF x 0x0A
  | .ldDTVx x => encI 0xF x 0x15
  | .ldSTVx x => encI 0xF x 0x18
  | .addIVx x => encI 0xF x 0x1E
  | .ldFVx x => encI 0xF x 0x29
  | .ldBVx x => encI 0xF x 0x33
  | .storeRegs x => encI 0xF x 0x55
  | .loadRegs x => encI 0xF x 0x65

/-- The bytes of an instruction as they lie in memory, lowest address first (R81). -/
def encodeBytes (i : Instr) : List Byte := [highByte (encode i), lowByte (encode i)]

/-- The two bytes, as they lie in memory, of the word the host numbers `w` in `nbits` bits
(spec/opcode_table.json): one 16-bit word, bits from `nbits` up are 0. -/
def tableWordBytes (nbits w : Nat) : List Byte :=
  [highByte (BitVec.ofNat 16 (w % 2 ^ nbits)), lowByte (BitVec.ofNat 16 (w % 2 ^ nbits))]

/-- The instruction the decoder reads from the word the host numbers `w` in `nbits` bits. -/
def decodeTableWord (nbits w : Nat) : Option Instr :=
  match decode (tableWordBytes nbits w) with
  | .instr i => some i
  | .rejected _ => none

end Sys2Proof
end

