-- ==== Sys2Proof/Config.lean ====
section
/-! DEFINITION. What is fixed for one machine: the constants of spec/00_scope.md R5 and the parameters
of R6 with their defaults. The free value of the random byte, `Config.rnd`, is applied to a whole state and so
stands in Machine/State.lean. -/

namespace Sys2Proof

/-- `MEM_SIZE`: bytes of memory (R5). -/
abbrev memSize : Nat := 4096
/-- `STACK_DEPTH`: entries of the return stack (R5). -/
abbrev stackDepth : Nat := 16
/-- `FB_W`: framebuffer columns (R5). -/
abbrev fbWidth : Nat := 64
/-- `FB_H`: framebuffer rows (R5). -/
abbrev fbHeight : Nat := 32
/-- `FONT_BASE`: first address of the glyph region (R5, R57). -/
abbrev fontBase : Nat := 0x50
/-- `FONT_LEN`: bytes of glyph data (R5, R57). -/
abbrev fontLen : Nat := 80
/-- `GLYPH_STRIDE`: bytes of one glyph (R5, R57). -/
abbrev glyphStride : Nat := 5
/-- `PROG_BASE`: load address of a program (R5, R63). -/
abbrev progBase : Nat := 0x200
/-- `PROG_MAX`: bytes of the largest program (R5, R63). -/
abbrev progMax : Nat := 3584

/-- The parameters of R6 that are fixed for one machine. `IPF`, the key events and the ticks are
inputs (Machine/Events.lean). -/
structure Config where
  /-- `PC_RESET`, the entry point (R292). -/
  pcReset : Word
  /-- `FONT`, the glyph bytes (R57). -/
  font : List Byte
  deriving DecidableEq, Repr

/-- Glyphs 0 to 3 of the default `FONT`, 5 bytes each, top row first (R58). PRESUMED: the table is the
spec's, from general knowledge (decision D2, log entry 2). -/
def fontRows0to3 : List Byte :=
  [0xF0, 0x90, 0x90, 0x90, 0xF0] ++ [0x20, 0x60, 0x20, 0x20, 0x70] ++
  [0xF0, 0x10, 0xF0, 0x80, 0xF0] ++ [0xF0, 0x10, 0xF0, 0x10, 0xF0]

/-- Glyphs 4 to 7 of the default `FONT` (R58). PRESUMED (log entry 2). -/
def fontRows4to7 : List Byte :=
  [0x90, 0x90, 0xF0, 0x10, 0x10] ++ [0xF0, 0x80, 0xF0, 0x10, 0xF0] ++
  [0xF0, 0x80, 0xF0, 0x90, 0xF0] ++ [0xF0, 0x10, 0x20, 0x40, 0x40]

/-- Glyphs 8 to B of the default `FONT` (R58). PRESUMED (log entry 2). -/
def fontRows8toB : List Byte :=
  [0xF0, 0x90, 0xF0, 0x90, 0xF0] ++ [0xF0, 0x90, 0xF0, 0x10, 0xF0] ++
  [0xF0, 0x90, 0xF0, 0x90, 0x90] ++ [0xE0, 0x90, 0xE0, 0x90, 0xE0]

/-- Glyphs C to F of the default `FONT` (R58). PRESUMED (log entry 2). -/
def fontRowsCtoF : List Byte :=
  [0xF0, 0x80, 0x80, 0x80, 0xF0] ++ [0xE0, 0x90, 0x90, 0x90, 0xE0] ++
  [0xF0, 0x80, 0xF0, 0x80, 0xF0] ++ [0xF0, 0x80, 0xF0, 0x80, 0x80]

/-- The default of the parameter `FONT` (R58). -/
def defaultFont : List Byte := fontRows0to3 ++ fontRows4to7 ++ fontRows8toB ++ fontRowsCtoF

/-- The machine with the spec's defaults: `PC_RESET` = 0x0200 (decision D1, log entry 1) and the
default `FONT` (decision D2, log entry 2). -/
def Config.standard : Config := { pcReset := 0x0200, font := defaultFont }

/-- The literal reading of "all fields zeroed", `PC_RESET` = 0x0000 (R292, conflict C1): the named
alternative that must stay instantiable. -/
def Config.literal : Config := { pcReset := 0x0000, font := defaultFont }

end Sys2Proof
end

