-- ==== Sys2Proof/Machine/State.lean ====
section
/-! DEFINITION. The machine state of spec/10_state.md R20, as plain data, and its value after CREATE. -/

namespace Sys2Proof.Machine

/-- Memory: the cells whose byte differs from the byte after reset, addresses strictly rising
(log entry 20; the form is `Memory.wf` in Machine/Ops.lean). -/
abbrev Memory := List Host.Cell

/-- The framebuffer: 32 rows of 64 one-bit cells. `fb[i]`, `i = x + 64*y`, is bit `x` of row `y` (R32;
spec/44_display.md R202; log entry 21). -/
abbrev Framebuffer := Vector (BitVec 64) 32

/-- The record of a fault (R34), one constructor for each of the six faults of
spec/60_exceptions.md R250 with the information that row records. `a` is the address the faulting
instruction was fetched from and `w` its word. -/
inductive FaultRecord where
  /-- `00EE` with `sp = 0` (R253). -/
  | stackUnderflow (a w : Word)
  /-- `2nnn` with `sp = 16` (R254). -/
  | stackOverflow (a w : Word)
  /-- The fetched word is none of the 35 (R255; that `a` is recorded is decision D22, log entry 18). -/
  | unknownOpcode (a w : Word)
  /-- A step begins with `pc > 0x0FFE` (R256; decision D3, log entry 5). -/
  | fetchOutOfRange (pc : Word)
  /-- The highest address an instruction would touch is above 0x0FFF (R257; decision D4, log entry 6). -/
  | memOutOfRange (addr : Nat) (a w : Word)
  /-- SKP or SKNP with `Vx > 15` (R258; decision D5, log entry 7). -/
  | keyIndexOutOfRange (a w : Word) (vx : Byte)
  deriving DecidableEq, Repr

/-- Why a step has no next state. The six faults of the spec are not here: entering one is a next
state, with the record in `State.halted` (log entry 4). -/
inductive Fault where
  /-- Raised by `step` (`cycle`) on a halted machine, which takes no step (spec/40_fetch_execute_cycle.md
  R117, spec/60_exceptions.md R252). Safe: the spec defines nothing there. -/
  | halted (r : FaultRecord)
  /-- Raised by CALL and RET when `sp` is above 16, which is no depth of the stack and unreachable
  (R28). Safe: the spec gives no effect there, and no run from reset comes there (log entry 17). -/
  | stackPointerRange (sp : Byte)
  deriving DecidableEq, Repr

/-- Why an instruction has no meaning. -/
inductive Refusal where
  /-- Raised by `exec` for an instruction without a meaning yet; every instruction has one, so nothing raises
  it. Safe. -/
  | notModelled (mnemonic : String)
  deriving DecidableEq, Repr

/-- "Machine State" (R20): exactly the ten elements and the fault latch; nothing else is state of the
machine. -/
structure MachineState where
  /-- `mem`, 4096 bytes (R33). -/
  mem : Memory
  /-- `V[0..15]`, general registers; `V[15]` is `VF` (R21, R22). -/
  v : Vector Byte 16
  /-- `I`, the index register (R23). -/
  i : Word
  /-- `pc`, the program counter (R24). -/
  pc : Word
  /-- `stack[0..15]`, return addresses (R27). -/
  stack : Vector Word 16
  /-- `sp`, how many return addresses are held, 0 to 16 (R28). -/
  sp : Byte
  /-- `DT`, the delay timer (R29). -/
  dt : Byte
  /-- `ST`, the sound timer (R30). -/
  st : Byte
  /-- `key[0..15]`, true while the key is down (R31). -/
  key : Vector Bool 16
  /-- `fb[0..2047]`, true while the pixel is set (R32). -/
  fb : Framebuffer
  /-- The fault latch with its record (R34). -/
  halted : Option FaultRecord
  deriving DecidableEq, Repr

/-- What `step` runs on: the Machine State, and beside it the one thing that is the MODEL's own. The spec's
events, STEP with its byte given among them, neither read nor write `draws`; only `step`, which is
handed no byte, does. -/
structure State extends MachineState where
  /-- How many bytes `step` has taken from the free value `Config.rnd`: it keeps two draws of one run from
  being one value, and is no state of the machine (R35; log entry 3). -/
  draws : Nat
  deriving DecidableEq, Repr

/-- The machine after CREATE with the spec's default parameters (R37; spec/70_reset_and_hazards.md R290):
all zero or false but the glyph bytes, which the memory with nothing listed reads as, and
`pc = PC_RESET` (log entries 1 and 2). `draws = 0` is a DESIGN CHOICE (log entry 3). -/
def State.reset : State where
  mem := []
  v := Vector.replicate 16 0
  i := 0
  pc := Config.standard.pcReset
  stack := Vector.replicate 16 0
  sp := 0
  dt := 0
  st := 0
  key := Vector.replicate 16 false
  fb := Vector.replicate 32 0
  halted := none
  draws := 0

/-- What a step or an instruction answers. -/
abbrev Result := Host.Outcome State Fault Refusal

end Sys2Proof.Machine

/-- DESIGN CHOICE (log entry 3): the byte that RND takes in `step`, a free value of the whole state it runs on.
Nothing is known of it, nor of how it is related in two states that differ in anything (R35, decision D12); that
it is one byte in equal states is all that `step`, a function of the state, forces. -/
opaque Sys2Proof.Config.rnd : Sys2Proof.Machine.State → Sys2Proof.Byte
end

