-- ==== Sys2Proof/Machine/Ops.lean ====
section
/-! DEFINITION. The shared operations over memory, registers, stack, framebuffer and keypad, and taking a
fault. An instruction's execute phase begins with `pc = a + 2`, `a` its own address
(spec/40_fetch_execute_cycle.md R111). -/

namespace Sys2Proof.Machine

/-! ## Writing one element of the state (spec/10_state.md R20) -/

/-- `V[r]` (R21). -/
def State.getV (s : State) (r : RegIdx) : Byte := s.v[r]

/-- `V[r] <- b` (R21). -/
def State.setV (s : State) (r : RegIdx) (b : Byte) : State := { s with v := s.v.set r b }

/-- All sixteen registers at once. -/
def State.setRegs (s : State) (v : Vector Byte 16) : State := { s with v := v }

/-- `I <- w` (R23). -/
def State.setI (s : State) (w : Word) : State := { s with i := w }

/-- `pc <- w` (R24). -/
def State.setPc (s : State) (w : Word) : State := { s with pc := w }

/-- The whole return stack (R27). -/
def State.setStack (s : State) (k : Vector Word 16) : State := { s with stack := k }

/-- `sp <- b` (R28). -/
def State.setSp (s : State) (b : Byte) : State := { s with sp := b }

/-- `DT <- b` (R29). -/
def State.setDT (s : State) (b : Byte) : State := { s with dt := b }

/-- `ST <- b` (R30). -/
def State.setST (s : State) (b : Byte) : State := { s with st := b }

/-- The whole keypad (R31). -/
def State.setKeys (s : State) (k : Vector Bool 16) : State := { s with key := k }

/-- `fb <- f` (R32). -/
def State.setFb (s : State) (f : Framebuffer) : State := { s with fb := f }

/-- `mem <- m` (R33). -/
def State.setMem (s : State) (m : Memory) : State := { s with mem := m }

/-- The fault latch set, with its record (R34). -/
def State.halt (s : State) (r : FaultRecord) : State := { s with halted := some r }

/-- One more byte taken from the free value (the model's own field, outside the Machine State; log
entry 3). -/
def State.countDraw (s : State) : State := { s with draws := s.draws + 1 }

/-! ## Memory (spec/20_memory.md) -/

/-- What an address that memory does not list reads as: the contents after CREATE with the default
`FONT`, the glyph bytes at 0x050 to 0x09F and 0 elsewhere (R51, R57; spec/10_state.md R37). -/
def resetByte (a : Nat) : Byte :=
  if fontBase ≤ a ∧ a < fontBase + fontLen then defaultFont.getD (a - fontBase) 0 else 0

/-- The canonical form of memory: addresses strictly rising, every listed address one of the 4096, no
cell equal to what its address reads as unlisted. -/
abbrev Memory.wf (m : Memory) : Prop :=
  m.Pairwise (fun c d => c.1 < d.1) ∧ ∀ c ∈ m, c.1 < memSize ∧ c.2 ≠ resetByte c.1

/-- The byte `mem[a]` (R55). Whether `a` exists is the caller's test (`spanOk`). -/
def Memory.read : Memory → Nat → Byte
  | [], a => resetByte a
  | (k, c) :: m, a => if k = a then c else Memory.read m a

/-- Memory with no cell for `a`. -/
def Memory.drop (m : Memory) (a : Nat) : Memory := m.filter (fun c => c.1 != a)

/-- A cell for `a` put before the first higher address. -/
def Memory.insert : Memory → Nat → Byte → Memory
  | [], a, b => [(a, b)]
  | (k, c) :: m, a, b => if k < a then (k, c) :: Memory.insert m a b else (a, b) :: (k, c) :: m

/-- `mem[a] <- b` (R56): that byte and nothing else; the canonical form is kept, a byte that the address
reads as unlisted leaves no cell. -/
def Memory.write (m : Memory) (a : Nat) (b : Byte) : Memory :=
  if b = resetByte a then Memory.drop m a else Memory.insert (Memory.drop m a) a b

/-- `n` bytes from `a` upward, one-byte reads in ascending order (R53, R67). -/
def Memory.readSpan (m : Memory) (a : Nat) : Nat → List Byte
  | 0 => []
  | n + 1 => Memory.read m a :: Memory.readSpan m (a + 1) n

/-- Bytes to `a` upward, one-byte writes in ascending order (R53, R67). -/
def Memory.writeSpan (m : Memory) (a : Nat) : List Byte → Memory
  | [] => m
  | b :: bs => Memory.writeSpan (Memory.write m a b) (a + 1) bs

/-- The addresses `a .. a + n - 1` all exist (R52): no wrap, no mask. -/
def spanOk (a n : Nat) : Bool := n = 0 || a + n ≤ memSize

/-- The highest address of `n` bytes from `a`. -/
def lastAddr (a n : Nat) : Nat := a + n - 1

/-- `MemRead` of `n` bytes from `a`, all addresses tested before the first read (R55, R116). -/
def State.load? (s : State) (a n : Nat) : Option (List Byte) :=
  if spanOk a n then some (s.mem.readSpan a n) else none

/-- `MemWrite` of bytes from `a`, all addresses tested before the first write (R56, R116). -/
def State.store? (s : State) (a : Nat) (bs : List Byte) : Option State :=
  if spanOk a bs.length then some (s.setMem (s.mem.writeSpan a bs)) else none

/-- One byte of memory, as an observer reads it. -/
def State.byteAt (s : State) (a : Nat) : Byte := s.mem.read a

/-! ## Runs of registers (spec/43_index_memory.md) -/

/-- The bytes `V[0] .. V[x]` in register order (R184). -/
def State.firstRegs (s : State) (x : RegIdx) : List Byte := s.v.toList.take (x.val + 1)

/-- `V[k], V[k+1], ...` take the bytes in ascending order (R185). -/
def regsFrom (k : Nat) (bs : List Byte) (v : Vector Byte 16) : Vector Byte 16 :=
  match bs with
  | [] => v
  | b :: bs => regsFrom (k + 1) bs (v.setIfInBounds k b)

/-- `V[0], V[1], ...` take the bytes, the rest unchanged (R185). -/
def State.setFirstRegs (s : State) (bs : List Byte) : State :=
  s.setRegs (regsFrom 0 bs s.v)

/-! ## Program counter and fetch (spec/40_fetch_execute_cycle.md) -/

/-- The fetch's `pc <- pc + 2` (R111). -/
def State.advance (s : State) : State := s.setPc (s.pc + 2)

/-- "A skip is `pc <- pc + 2` in the execute phase" (spec/41_control_flow.md R139), taken or not. -/
def State.skipIf (s : State) (c : Bool) : State := if c then s.setPc (s.pc + 2) else s

/-- The address of the instruction in its execute phase: `pc` is already `a + 2` (R111). -/
def State.instrAddr (s : State) : Word := s.pc - 2

/-- The word at `pc`, big-endian, or none where one of its bytes is outside memory (R111, R112). -/
def State.fetch? (s : State) : Option Word :=
  if s.pc.toNat ≤ 0x0FFE then some (wordOf (s.byteAt s.pc.toNat) (s.byteAt (s.pc.toNat + 1)))
  else none

/-! ## Taking a fault (spec/60_exceptions.md) -/

/-- `raise F(info)` (R251): `halted` becomes true with the record and every other element keeps its
value, `pc` included. Callers raise before their first write (R116). There is no return from it (R265). -/
def raise (r : FaultRecord) (s : State) : Result := .next (s.halt r)

/-- Raise `MemOutOfRange` for `n` bytes from `a`, with the highest address the instruction `i` would have
touched (R257). -/
def raiseMem (i : Instr) (a n : Nat) (s : State) : Result :=
  raise (.memOutOfRange (lastAddr a n) s.instrAddr (encode i)) s

/-! ## Return stack (spec/10_state.md R27, R28) -/

/-- `stack[sp] <- w; sp <- sp + 1` where the stack has room. -/
def State.push? (s : State) (w : Word) : Option State :=
  if h : s.sp.toNat < stackDepth then
    some ((s.setStack (s.stack.set s.sp.toNat w h)).setSp (s.sp + 1))
  else none

/-- `sp <- sp - 1`, with the entry that was on top; the entry keeps its value in the array (decision
D10, log entry 11). None where `sp` is 0 or no depth of the stack. -/
def State.pop? (s : State) : Option (Word × State) :=
  if s.sp = 0 then none
  else (s.stack[s.sp.toNat - 1]?).map (fun w => (w, s.setSp (s.sp - 1)))

/-! ## Keypad (spec/45_keypad_timers.md) -/

/-- `key[n]`, or none where `n` is no key (R220, R258). -/
def State.keyDown? (s : State) (n : Nat) : Option Bool := s.key[n]?

/-- The lowest-indexed pressed key (R223). -/
def State.lowestKey? (s : State) : Option Nat := s.key.toList.findIdx? (fun down => down)

/-! ## Framebuffer (spec/44_display.md) -/

/-- The index of pixel `(px, py)` (R202). -/
def pixelIndex (px py : Nat) : Nat := px + fbWidth * py

/-- Row `y` of the framebuffer, its 64 pixels; empty for a number that is no row. -/
def Framebuffer.row (f : Framebuffer) (y : Nat) : BitVec 64 := f[y]?.getD 0

/-- `fb[idx]`: bit `idx mod 64` of row `idx div 64`; false for an index that is no pixel. -/
def Framebuffer.pixel (f : Framebuffer) (idx : Nat) : Bool :=
  (f.row (idx / fbWidth)).getLsbD (idx % fbWidth)

/-- `fb[idx] <- fb[idx] xor 1` (R203). -/
def Framebuffer.toggle (f : Framebuffer) (idx : Nat) : Framebuffer :=
  f.setIfInBounds (idx / fbWidth) (f.row (idx / fbWidth) ^^^ BitVec.twoPow 64 (idx % fbWidth))

/-- All pixels unset (R200). -/
def Framebuffer.clear : Framebuffer := Vector.replicate 32 0

/-- A drawing in progress: the framebuffer and whether a set pixel has been unset (R203). -/
structure Drawing where
  fb : Framebuffer
  collision : Bool
  deriving DecidableEq, Repr

/-- One sprite bit: column `col` of row `row`, most significant bit first, wrapped on each axis on its
own (R201). -/
def drawPixel (vx vy row : Nat) (b : Byte) (d : Drawing) (col : Nat) : Drawing :=
  if b.getLsbD (7 - col) then
    let idx := pixelIndex ((vx + col) % fbWidth) ((vy + row) % fbHeight)
    { fb := d.fb.toggle idx, collision := d.collision || d.fb.pixel idx }
  else d

/-- One sprite row, left to right (R201). -/
def drawRow (vx vy row : Nat) (b : Byte) (d : Drawing) : Drawing :=
  (List.range 8).foldl (drawPixel vx vy row b) d

/-- The sprite rows from `row` on, top to bottom (R201). -/
def drawRows (vx vy row : Nat) (bs : List Byte) (d : Drawing) : Drawing :=
  match bs with
  | [] => d
  | b :: bs => drawRows vx vy (row + 1) bs (drawRow vx vy row b d)

/-- A whole sprite on a framebuffer (R201). -/
def drawSprite (vx vy : Nat) (bs : List Byte) (f : Framebuffer) : Drawing :=
  drawRows vx vy 0 bs { fb := f, collision := false }

end Sys2Proof.Machine
end

