-- ==== Sys2Proof/Machine/Flags.lean ====
section
/-! DEFINITION. The values written to `VF` (spec/10_state.md R22) and the 8-bit results they belong to
(spec/42_alu.md R162): exact on natural numbers, then narrowed. -/

namespace Sys2Proof.Machine

/-- A flag as a register value: 1 or 0. -/
def flagByte (c : Bool) : Byte := if c then 1 else 0

/-- `(a + b) mod 256` (R162). -/
def addByte (a b : Byte) : Byte := BitVec.ofNat 8 ((a.toNat + b.toNat) % 256)

/-- `(a - b) mod 256` (R162). -/
def subByte (a b : Byte) : Byte := BitVec.ofNat 8 ((a.toNat + 256 - b.toNat) % 256)

/-- `a div 2` (R158). -/
def shrByte (a : Byte) : Byte := BitVec.ofNat 8 (a.toNat / 2)

/-- `(a * 2) mod 256` (R160). -/
def shlByte (a : Byte) : Byte := BitVec.ofNat 8 (a.toNat * 2 % 256)

/-- Carry of `8xy4`: 1 if the true sum exceeds 255 (R156). -/
def carryFlag (vx vy : Byte) : Byte := flagByte (255 < vx.toNat + vy.toNat)

/-- No borrow of `8xy5`: 1 if `vx >= vy` (R157). -/
def noBorrowFlag (vx vy : Byte) : Byte := flagByte (vy.toNat ≤ vx.toNat)

/-- Flag of `8xy7`: 1 if `vy` is strictly greater than `vx` (R159). -/
def greaterFlag (vx vy : Byte) : Byte := flagByte (vx.toNat < vy.toNat)

/-- Bit shifted out of `8xy6`: `vx[0]` (R158). -/
def shrFlag (vx : Byte) : Byte := flagByte (vx.getLsbD 0)

/-- Bit shifted out of `8xyE`: `vx[7]` (R160). -/
def shlFlag (vx : Byte) : Byte := flagByte (vx.getLsbD 7)

/-- Write order of `8xy4` and `8xy5`: `V[x]`, then `VF` (spec/40_fetch_execute_cycle.md R115; decision D6,
log entry 8). -/
def State.setResultThenFlag (s : State) (x : RegIdx) (res flag : Byte) : State :=
  (s.setV x res).setV regF flag

/-- Write order of `8xy6`, `8xy7` and `8xyE`: `VF`, then `V[x]` (R115; decision D6, log entry 8). -/
def State.setFlagThenResult (s : State) (x : RegIdx) (res flag : Byte) : State :=
  (s.setV regF flag).setV x res

end Sys2Proof.Machine
end

