-- ==== Sys2Proof/Machine/Operands.lean ====
section
/-! DEFINITION. The operand forms (spec/30_encoding.md R84): registers are read before the instruction
writes anything (spec/40_fetch_execute_cycle.md R114), immediates are unsigned and zero-extended. -/

namespace Sys2Proof.Machine

/-- `zext_16(nnn)` (R84). -/
def zextAddr (nnn : Addr12) : Word := nnn.setWidth 16

/-- `zext_16(b)` (spec/00_scope.md R8). -/
def zextByte (b : Byte) : Word := b.setWidth 16

/-- The effective address of byte `k` an instruction moves: the natural number `I + k`
(spec/43_index_memory.md R186). -/
def State.effAddr (s : State) (k : Nat) : Nat := s.i.toNat + k

/-- The target of `JP V0, nnn`: always `V0` (spec/41_control_flow.md R138). -/
def State.offsetTarget (s : State) (nnn : Addr12) : Word := zextByte (s.getV 0) + zextAddr nnn

/-- The address of the glyph for `b`, the whole byte unmasked (spec/43_index_memory.md R182; decision D11,
log entry 12). -/
def glyphAddr (b : Byte) : Word := BitVec.ofNat 16 (fontBase + glyphStride * b.toNat)

/-- The decimal digits of a byte, hundreds first (R183). -/
def bcdDigits (b : Byte) : List Byte :=
  [BitVec.ofNat 8 (b.toNat / 100), BitVec.ofNat 8 (b.toNat / 10 % 10), BitVec.ofNat 8 (b.toNat % 10)]

end Sys2Proof.Machine
end

