-- ==== Sys2Proof/Machine/Alu.lean ====
section
/-! DEFINITION. Register load, arithmetic, logic, shifts and the random byte (spec/42_alu.md). Operands
are read from the state before anything is written (spec/40_fetch_execute_cycle.md R114). -/

namespace Sys2Proof.Machine

/-- LD Vx, kk (R150). -/
def execLdImm (x : RegIdx) (kk : Byte) (s : State) : Result := .next (s.setV x kk)

/-- ADD Vx, kk (R151): wraps, no flag. -/
def execAddImm (x : RegIdx) (kk : Byte) (s : State) : Result :=
  .next (s.setV x (addByte (s.getV x) kk))

/-- LD Vx, Vy (R152). -/
def execLdReg (x y : RegIdx) (s : State) : Result := .next (s.setV x (s.getV y))

/-- OR Vx, Vy (R153): no flag. -/
def execOrReg (x y : RegIdx) (s : State) : Result := .next (s.setV x (s.getV x ||| s.getV y))

/-- AND Vx, Vy (R154): no flag. -/
def execAndReg (x y : RegIdx) (s : State) : Result := .next (s.setV x (s.getV x &&& s.getV y))

/-- XOR Vx, Vy (R155): no flag. -/
def execXorReg (x y : RegIdx) (s : State) : Result := .next (s.setV x (s.getV x ^^^ s.getV y))

/-- ADD Vx, Vy (R156): the sum, then the carry in `VF`. -/
def execAddReg (x y : RegIdx) (s : State) : Result :=
  .next (s.setResultThenFlag x (addByte (s.getV x) (s.getV y)) (carryFlag (s.getV x) (s.getV y)))

/-- SUB Vx, Vy (R157): the difference, then "no borrow" in `VF`. -/
def execSubReg (x y : RegIdx) (s : State) : Result :=
  .next (s.setResultThenFlag x (subByte (s.getV x) (s.getV y)) (noBorrowFlag (s.getV x) (s.getV y)))

/-- SHR Vx (R158): the bit shifted out in `VF`, then the shifted value; `y` is ignored (R89). -/
def execShr (x _y : RegIdx) (s : State) : Result :=
  .next (s.setFlagThenResult x (shrByte (s.getV x)) (shrFlag (s.getV x)))

/-- SUBN Vx, Vy (R159): `vy > vx` in `VF`, then the reverse difference. -/
def execSubnReg (x y : RegIdx) (s : State) : Result :=
  .next (s.setFlagThenResult x (subByte (s.getV y) (s.getV x)) (greaterFlag (s.getV x) (s.getV y)))

/-- SHL Vx (R160): the bit shifted out in `VF`, then the shifted value; `y` is ignored (R89). -/
def execShl (x _y : RegIdx) (s : State) : Result :=
  .next (s.setFlagThenResult x (shlByte (s.getV x)) (shlFlag (s.getV x)))

/-- RND Vx, kk with the step's random byte given (R161). -/
def execRndWith (byte : Byte) (x : RegIdx) (kk : Byte) (s : State) : Result :=
  .next (s.setV x (byte &&& kk))

/-- RND Vx, kk (R161), its byte the free value of this state, the draw counted (decision D12, log
entry 3). -/
def execRnd (x : RegIdx) (kk : Byte) (s : State) : Result :=
  execRndWith (Config.rnd s) x kk s.countDraw

end Sys2Proof.Machine
end

