-- ==== Sys2Proof/Machine/Control.lean ====
section
/-! DEFINITION. Control flow (spec/41_control_flow.md). Each meaning is the execute phase, which begins
with `pc` already past the instruction. -/

namespace Sys2Proof.Machine

/-- What CALL and RET do where the stack test of R131 or R133 did not let them through: the named fault at
its one value of `sp`, and a stop of the model's own where `sp` is no depth (log entry 17). -/
def stackFault (bad : Byte) (r : FaultRecord) (s : State) : Result :=
  if s.sp = bad then raise r s else .fault (.stackPointerRange s.sp)

/-- NOP: "No state change." (R130). -/
def execNop (s : State) : Result := .next s

/-- RET (R131): the popped entry is the new `pc`; `StackUnderflow` when `sp = 0` (R253). -/
def execRet (s : State) : Result :=
  match s.pop? with
  | some (w, t) => .next (t.setPc w)
  | none => stackFault 0 (.stackUnderflow s.instrAddr (encode .ret)) s

/-- JP nnn (R132). -/
def execJp (nnn : Addr12) (s : State) : Result := .next (s.setPc (zextAddr nnn))

/-- CALL nnn (R133): pushes the already advanced `pc`; `StackOverflow` when `sp = 16` (R254). -/
def execCall (nnn : Addr12) (s : State) : Result :=
  match s.push? s.pc with
  | some t => .next (t.setPc (zextAddr nnn))
  | none => stackFault 16 (.stackOverflow s.instrAddr (encode (.call nnn))) s

/-- SE Vx, kk (R134). -/
def execSeImm (x : RegIdx) (kk : Byte) (s : State) : Result := .next (s.skipIf (s.getV x == kk))

/-- SNE Vx, kk (R135). -/
def execSneImm (x : RegIdx) (kk : Byte) (s : State) : Result := .next (s.skipIf (s.getV x != kk))

/-- SE Vx, Vy (R136). -/
def execSeReg (x y : RegIdx) (s : State) : Result := .next (s.skipIf (s.getV x == s.getV y))

/-- SNE Vx, Vy (R137). -/
def execSneReg (x y : RegIdx) (s : State) : Result := .next (s.skipIf (s.getV x != s.getV y))

/-- JP V0, nnn (R138). -/
def execJpV0 (nnn : Addr12) (s : State) : Result := .next (s.setPc (s.offsetTarget nnn))

end Sys2Proof.Machine
end

