-- ==== Sys2Proof/Machine/Display.lean ====
section
/-! DEFINITION. Clear screen and sprite drawing with collision (spec/44_display.md). -/

namespace Sys2Proof.Machine

/-- CLS (R200): all pixels unset, `VF` not written. -/
def execCls (s : State) : Result := .next (s.setFb Framebuffer.clear)

/-- DRW Vx, Vy, n (R201): `n` sprite bytes from `I`, XORed at `(vx, vy)` with wrapping per pixel; the
collision bit is written to `VF` last. `n = 0` reads nothing and never faults. -/
def execDrw (x y : RegIdx) (n : Nibble) (s : State) : Result :=
  match s.load? (s.effAddr 0) n.toNat with
  | some bs =>
    let d := drawSprite (s.getV x).toNat (s.getV y).toNat bs s.fb
    .next ((s.setFb d.fb).setV regF (flagByte d.collision))
  | none => raiseMem (.drw x y n) (s.effAddr 0) n.toNat s

end Sys2Proof.Machine
end

