-- ==== Sys2Proof/Machine/IndexMemory.lean ====
section
/-! DEFINITION. The index register and memory transfer (spec/43_index_memory.md). `I` is never changed
by the three memory instructions (R186; decision D9, log entry 10). -/

namespace Sys2Proof.Machine

/-- LD I, nnn (R180). -/
def execLdI (nnn : Addr12) (s : State) : Result := .next (s.setI (zextAddr nnn))

/-- ADD I, Vx (R181): wraps modulo 65536, no flag, no fault. -/
def execAddIVx (x : RegIdx) (s : State) : Result := .next (s.setI (s.i + zextByte (s.getV x)))

/-- LD F, Vx (R182): the whole byte, unmasked (decision D11, log entry 12). -/
def execLdFVx (x : RegIdx) (s : State) : Result := .next (s.setI (glyphAddr (s.getV x)))

/-- LD B, Vx (R183): hundreds, tens, ones to `I`, `I + 1`, `I + 2`; `MemOutOfRange` before any write. -/
def execLdBVx (x : RegIdx) (s : State) : Result :=
  match s.store? (s.effAddr 0) (bcdDigits (s.getV x)) with
  | some t => .next t
  | none => raiseMem (.ldBVx x) (s.effAddr 0) 3 s

/-- LD [I], Vx (R184): `V0 .. Vx` to `I` upward; `MemOutOfRange` before any write. -/
def execStoreRegs (x : RegIdx) (s : State) : Result :=
  match s.store? (s.effAddr 0) (s.firstRegs x) with
  | some t => .next t
  | none => raiseMem (.storeRegs x) (s.effAddr 0) (x.val + 1) s

/-- LD Vx, [I] (R185): memory from `I` upward to `V0 .. Vx`; `MemOutOfRange` before any write. -/
def execLoadRegs (x : RegIdx) (s : State) : Result :=
  match s.load? (s.effAddr 0) (x.val + 1) with
  | some bs => .next (s.setFirstRegs bs)
  | none => raiseMem (.loadRegs x) (s.effAddr 0) (x.val + 1) s

end Sys2Proof.Machine
end

