-- ==== Sys2Proof/Machine/KeypadTimers.lean ====
section
/-! DEFINITION. Keypad and timer instructions (spec/45_keypad_timers.md). The keys are read as they are
when the step executes (R226). -/

namespace Sys2Proof.Machine

/-- SKP Vx (R220): the whole byte is the key index; `KeyIndexOutOfRange` above 15 (R258; decision D5, log
entry 7). -/
def execSkp (x : RegIdx) (s : State) : Result :=
  match s.keyDown? (s.getV x).toNat with
  | some down => .next (s.skipIf down)
  | none => raise (.keyIndexOutOfRange s.instrAddr (encode (.skp x)) (s.getV x)) s

/-- SKNP Vx (R221). -/
def execSknp (x : RegIdx) (s : State) : Result :=
  match s.keyDown? (s.getV x).toNat with
  | some down => .next (s.skipIf (!down))
  | none => raise (.keyIndexOutOfRange s.instrAddr (encode (.sknp x)) (s.getV x)) s

/-- LD Vx, DT (R222). -/
def execLdVxDT (x : RegIdx) (s : State) : Result := .next (s.setV x s.dt)

/-- LD Vx, K (R223): the lowest key that is down, or the instruction again. -/
def execLdVxK (x : RegIdx) (s : State) : Result :=
  match s.lowestKey? with
  | some k => .next (s.setV x (BitVec.ofNat 8 k))
  | none => .next (s.setPc (s.pc - 2))

/-- LD DT, Vx (R224). -/
def execLdDTVx (x : RegIdx) (s : State) : Result := .next (s.setDT (s.getV x))

/-- LD ST, Vx (R225). -/
def execLdSTVx (x : RegIdx) (s : State) : Result := .next (s.setST (s.getV x))

end Sys2Proof.Machine
end

