-- ==== Sys2Proof/Machine/Cycle.lean ====
section
/-! DEFINITION. The fetch-decode-execute cycle, the event STEP (spec/40_fetch_execute_cycle.md). -/

namespace Sys2Proof.Machine

/-- Decode and execute of the fetched word `w`, on the state before the fetch (R111, R113): `pc` is
advanced, then the instruction runs, or the word is no instruction and `UnknownOpcode(a, w)` is raised
(R255). -/
def executeWord (run : Instr → State → Result) (w : Word) (s : State) : Result :=
  match decodeWord w with
  | .instr i => run i s.advance
  | .rejected _ => raise (.unknownOpcode s.pc w) s.advance

/-- One step (R110), with the execute phase of an instruction given: none on a halted machine (R117);
`FetchOutOfRange(pc)` with `pc` not advanced where a byte of the word is outside memory (R112). -/
def cycle (run : Instr → State → Result) (s : State) : Result :=
  match s.halted with
  | some r => .fault (.halted r)
  | none =>
    match s.fetch? with
    | some w => executeWord run w s
    | none => raise (.fetchOutOfRange s.pc) s

/-- The execute phase with the step's random byte given from outside: RND takes that byte, every other
instruction ignores it (spec/42_alu.md R161). -/
def execDrawing (byte : Byte) (i : Instr) (s : State) : Result :=
  match i with
  | .rnd x kk => execRndWith byte x kk s
  | i => exec i s

/-- The state in which the host's two bytes stand where the next step fetches, and nothing keeps that
step from running: not halted, and `pc` at an address a word can be fetched from (log entry 22). -/
def State.placeBytes (s : State) (bs : List Byte) : State :=
  let pc := if s.pc.toNat ≤ 0x0FFE then s.pc else Config.standard.pcReset
  { s with mem := s.mem.writeSpan pc.toNat bs, pc := pc, halted := none }

end Sys2Proof.Machine
end

