-- ==== Sys2Proof/Machine/Step.lean ====
section
/-! DEFINITION. The machine's step: the event STEP (spec/40_fetch_execute_cycle.md R110) with its random
byte a free value (log entry 3). No other event happens in a step. -/

namespace Sys2Proof.Machine

/-- One step of the machine. -/
def step (s : State) : Host.Outcome State Fault Refusal := cycle exec s

/-- The event STEP(rnd), its random byte given (spec/00_scope.md R9). -/
def stepWith (byte : Byte) (s : State) : Host.Outcome State Fault Refusal :=
  cycle (execDrawing byte) s

/-- `s` with the word the host numbers `w` in `nbits` bits where `step` fetches next (log entry 22). -/
def State.withFetchWord (s : State) (nbits w : Nat) : State := s.placeBytes (tableWordBytes nbits w)

end Sys2Proof.Machine
end

