-- ==== Sys2Proof/WellFormed.lean ====
section
/-! DEFINITION. What the machine's inputs must satisfy: instructions, the parameters of CREATE, the
program of LOAD, the key index of SET_KEY. -/

namespace Sys2Proof

/-- Every instruction term is an instruction of the machine: each field's width is its type, and every
value of every field is legal (spec/30_encoding.md R83, R84, R89), so no further check is left. -/
def Instr.wellFormed : Instr → Bool
  | .nop | .cls | .ret => true
  | .jp _ | .call _ | .ldI _ | .jpV0 _ => true
  | .seImm _ _ | .sneImm _ _ | .ldImm _ _ | .addImm _ _ | .rnd _ _ => true
  | .seReg _ _ | .sneReg _ _ | .ldReg _ _ | .orReg _ _ | .andReg _ _ | .xorReg _ _ => true
  | .addReg _ _ | .subReg _ _ | .shr _ _ | .subnReg _ _ | .shl _ _ => true
  | .drw _ _ _ => true
  | .skp _ | .sknp _ | .ldVxDT _ | .ldVxK _ | .ldDTVx _ | .ldSTVx _ => true
  | .addIVx _ | .ldFVx _ | .ldBVx _ | .storeRegs _ | .loadRegs _ => true

/-- "`FONT` must be exactly 80 bytes" (spec/70_reset_and_hazards.md R290). -/
def Config.fontOk (c : Config) : Bool := c.font.length == fontLen

/-- "`PC_RESET` must be at most `0x0FFE` for the first fetch to succeed" (R292). -/
def Config.pcResetOk (c : Config) : Bool := c.pcReset.toNat ≤ 0x0FFE

/-- The parameters CREATE may be given (R290, R292). -/
def Config.wellFormed (c : Config) : Bool := c.fontOk && c.pcResetOk

/-- A program that fits: at most `PROG_MAX` bytes (spec/20_memory.md R63). -/
def programFits (bytes : List Byte) : Bool := progBase + bytes.length ≤ memSize

/-- The key indices SET_KEY may be given: 0 to 15 (spec/60_exceptions.md R266). -/
def keyIndexOk (k : Nat) : Bool := k < 16

end Sys2Proof
end

