-- ==== Sys2Proof/Machine/Events.lean ====
section
/-! DEFINITION. The environment's events (spec/00_scope.md R9) and the order the spec allows them in.
The host's `step` is the event STEP alone; these are the others, and `Session` is a run of all six. -/

namespace Sys2Proof.Machine

/-- The machine as CREATE leaves it (spec/70_reset_and_hazards.md R290): every element zero or false but the
glyph bytes, which are `FONT`, and `pc`, which is `PC_RESET`. -/
def createdState (c : Config) : State :=
  (State.reset.setMem (Memory.writeSpan [] fontBase c.font)).setPc c.pcReset

/-- CREATE (R290, R301): none, no move, where `FONT` is not exactly 80 bytes
(spec/93_implementation_defined.md U16) or `PC_RESET` is above 0x0FFE (R292). -/
def create (c : Config) : Option State := if c.wellFormed then some (createdState c) else none

/-- What LOAD answers (spec/20_memory.md R63, R64). -/
inductive LoadResult where
  | loaded (s : State)
  /-- `OutOfCapacity`: an error result, not a fault (spec/60_exceptions.md R259). -/
  | outOfCapacity
  deriving DecidableEq, Repr

/-- LOAD (R63 to R65): the bytes to 0x200 upward and nothing else, or `OutOfCapacity` and no change. -/
def load (bytes : List Byte) (s : State) : LoadResult :=
  if programFits bytes then .loaded (s.setMem (s.mem.writeSpan progBase bytes))
  else .outOfCapacity

/-- A timer one tick later: down by 1, floored at 0 (R262). -/
def tickDown (b : Byte) : Byte := if b = 0 then 0 else b - 1

/-- TICK (R262). -/
def tick (s : State) : State := (s.setDT (tickDown s.dt)).setST (tickDown s.st)

/-- SET_KEY (R266). An index above 15 is outside the interface and changes nothing here; `Session.act`
gives it no move (decision D14, log entry 14). -/
def setKey (k : Nat) (pressed : Bool) (s : State) : State :=
  s.setKeys (s.key.setIfInBounds k pressed)

/-- READ_FB (R268): the 2048 pixels, and no change. -/
def readFb (s : State) : Framebuffer := s.fb

/-- The events after CREATE (R9). -/
inductive Event where
  | load (bytes : List Byte)
  | step (byte : Byte)
  | tick
  | setKey (k : Nat) (pressed : Bool)
  | readFb
  deriving DecidableEq, Repr

/-- Where a session stands: created, no program loaded yet; or loaded and in its run (R293). -/
inductive Phase where
  | created
  | loaded
  deriving DecidableEq, Repr

/-- A machine with its environment's progress. The phase is the environment's, not the machine's (R20). -/
structure Session where
  machine : State
  phase : Phase
  deriving DecidableEq, Repr

/-- What the environment gets back from an event. -/
inductive Response where
  | done
  /-- LOAD failed (R64). -/
  | outOfCapacity
  /-- The pixels (R268). -/
  | pixels (f : Framebuffer)
  deriving DecidableEq, Repr

/-- A duty of the host that an event broke (spec/92_eei_decisions.md, "Host duties assumed"). -/
inductive Duty where
  /-- CREATE with a `FONT` of other than 80 bytes (R290, R301; spec/93_implementation_defined.md U16), or
  with a `PC_RESET` above 0x0FFE (R292). -/
  | createInput
  /-- STEP, TICK or READ_FB before the program is loaded (R293). -/
  | runBeforeLoad
  /-- LOAD after a successful LOAD (spec/20_memory.md R66; decision D15). -/
  | loadAfterLoad
  /-- STEP after a fault (R301; decision D7). -/
  | stepAfterFault
  /-- SET_KEY with an index above 15 (R266; decision D14). -/
  | keyIndex
  deriving DecidableEq, Repr

/-- What an event does to a session. -/
inductive Reply where
  | moved (p : Session) (r : Response)
  /-- The spec gives the event no move here. -/
  | noMove (d : Duty)
  /-- The step stopped for a reason of the model's own (log entry 17). -/
  | stuck (f : Fault)
  /-- The step met an instruction without a meaning; none is left. -/
  | refused (r : Refusal)
  deriving DecidableEq, Repr

/-- CREATE begins a session (R290, R293); what it may not be given has no move. -/
def Session.start (c : Config) : Reply :=
  match create c with
  | some s => .moved { machine := s, phase := .created } .done
  | none => .noMove .createInput

/-- STEP in a session (R110, R117, R301). -/
def Session.actStep (p : Session) (byte : Byte) : Reply :=
  match stepWith byte p.machine with
  | .next t => .moved { p with machine := t } .done
  | .fault (.halted _) => .noMove .stepAfterFault
  | .fault f => .stuck f
  | .refused r => .refused r

/-- LOAD in a session: once, before the run; a failed one may be retried (R66). -/
def Session.actLoad (p : Session) (bytes : List Byte) : Reply :=
  match load bytes p.machine with
  | .loaded t => .moved { machine := t, phase := .loaded } .done
  | .outOfCapacity => .moved p .outOfCapacity

/-- One event after CREATE in a session (R293, R297 to R301). SET_KEY is allowed before the first step (R293); that
the events of the run wait for LOAD is DEDUCED from R293 (log entry 14). -/
def Session.act (p : Session) (e : Event) : Reply :=
  match e with
  | .load bytes =>
    match p.phase with
    | .created => p.actLoad bytes
    | .loaded => .noMove .loadAfterLoad
  | .step byte =>
    match p.phase with
    | .created => .noMove .runBeforeLoad
    | .loaded => p.actStep byte
  | .tick =>
    match p.phase with
    | .created => .noMove .runBeforeLoad
    | .loaded => .moved { p with machine := tick p.machine } .done
  | .setKey k pressed =>
    if keyIndexOk k then .moved { p with machine := setKey k pressed p.machine } .done
    else .noMove .keyIndex
  | .readFb =>
    match p.phase with
    | .created => .noMove .runBeforeLoad
    | .loaded => .moved p (.pixels (readFb p.machine))

/-- Events one after another, as long as each one moves (R293). -/
def Session.run (p : Session) : List Event → Option Session
  | [] => some p
  | e :: es =>
    match p.act e with
    | .moved q _ => q.run es
    | .noMove _ => none
    | .stuck _ => none
    | .refused _ => none

/-- One display frame (R299): one STEP for each byte drawn (`IPF` of them), then one TICK, then one
READ_FB. -/
def frameEvents (draws : List Byte) : List Event :=
  draws.map Event.step ++ [.tick, .readFb]

end Sys2Proof.Machine
end

