-- ==== Sys2Proof/Safety.lean ====
section
/-! DEFINITION. What counts as a safe run, the invariant of the reachable states, and what a frame keeps,
in the terms the claims use. -/

namespace Sys2Proof.Machine

/-- Not halted: the premise or conclusion of every claim about a run (spec/60_exceptions.md R252). -/
def State.running (s : State) : Prop := s.halted = none

/-- The invariant of spec/10_state.md R38 (R26, R28), and the canonical form of memory: at most 16
return addresses are held, each at most 0x1000, and `pc` is at most 0x10FE. -/
abbrev State.Inv (s : State) : Prop :=
  s.mem.wf ∧ s.sp.toNat ≤ 16 ∧ s.pc.toNat ≤ 0x10FE ∧
    ∀ k : Fin 16, k.val < s.sp.toNat → s.stack[k].toNat ≤ 0x1000

/-- The idle loop `JP a` at `a` (spec/70_reset_and_hazards.md R295; decision D16, log entry 24): where a
claim may say a program has ended. -/
def State.idle (s : State) : Prop :=
  s.running ∧ ∃ nnn : Addr12, s.fetch? = some (encode (.jp nnn)) ∧ s.pc.toNat = nnn.toNat

/-- Every byte of memory reads as before but those of `n` bytes from `a`. -/
def memKeptBut (a n : Nat) (s t : State) : Prop :=
  ∀ b : Nat, ¬ (a ≤ b ∧ b < a + n) → t.byteAt b = s.byteAt b

/-- Every byte of memory reads as before. -/
def memKept (s t : State) : Prop := ∀ b : Nat, t.byteAt b = s.byteAt b

/-- Every general register but those listed is as before. -/
def regsKeptBut (rs : List RegIdx) (s t : State) : Prop := ∀ r : RegIdx, r ∉ rs → t.getV r = s.getV r

/-- The return stack and its pointer are as before. -/
def stackKept (s t : State) : Prop := t.stack = s.stack ∧ t.sp = s.sp

/-- Both timers are as before. -/
def timersKept (s t : State) : Prop := t.dt = s.dt ∧ t.st = s.st

/-- Keypad and fault latch are as before, and no random byte was drawn. -/
def panelKept (s t : State) : Prop := t.key = s.key ∧ t.halted = s.halted ∧ t.draws = s.draws

/-- Everything but `pc` and the listed general registers is as before. -/
def keptButRegs (rs : List RegIdx) (s t : State) : Prop :=
  regsKeptBut rs s t ∧ t.i = s.i ∧ stackKept s t ∧ timersKept s t ∧ panelKept s t ∧ t.fb = s.fb ∧
    memKept s t

/-- Everything but `pc`, the return stack and `sp` is as before. -/
def keptButStack (s t : State) : Prop :=
  regsKeptBut [] s t ∧ t.i = s.i ∧ timersKept s t ∧ panelKept s t ∧ t.fb = s.fb ∧ memKept s t

/-- Everything but `pc` and `I` is as before. -/
def keptButI (s t : State) : Prop :=
  regsKeptBut [] s t ∧ stackKept s t ∧ timersKept s t ∧ panelKept s t ∧ t.fb = s.fb ∧ memKept s t

/-- Everything but `pc` and the timers is as before. -/
def keptButTimers (s t : State) : Prop :=
  regsKeptBut [] s t ∧ t.i = s.i ∧ stackKept s t ∧ panelKept s t ∧ t.fb = s.fb ∧ memKept s t

/-- Everything but `pc` and `n` bytes of memory from `a` is as before. -/
def keptButMem (a n : Nat) (s t : State) : Prop :=
  regsKeptBut [] s t ∧ t.i = s.i ∧ stackKept s t ∧ timersKept s t ∧ panelKept s t ∧ t.fb = s.fb ∧
    memKeptBut a n s t

/-- Everything but `pc`, the framebuffer and the listed general registers is as before. -/
def keptButFb (rs : List RegIdx) (s t : State) : Prop :=
  regsKeptBut rs s t ∧ t.i = s.i ∧ stackKept s t ∧ timersKept s t ∧ panelKept s t ∧ memKept s t

/-- What a step answers, as far as the Machine State goes (R20): the model's own `draws` left out. -/
def onMachine : Result → Host.Outcome MachineState Fault Refusal
  | .next t => .next t.toMachineState
  | .fault f => .fault f
  | .refused r => .refused r

/-- The byte at `a` after `bs` has been stored at `base` upward. -/
def State.byteUnder (s : State) (base : Nat) (bs : List Byte) (a : Nat) : Byte :=
  if base ≤ a then bs.getD (a - base) (s.byteAt a) else s.byteAt a

/-- The illegal words, as spec/30_encoding.md R87 lists them. -/
def illegalWord (w : Word) : Bool :=
  let v := w.toNat
  (v / 4096 == 0 && v != 0x0000 && v != 0x00E0 && v != 0x00EE) ||
  ((v / 4096 == 5 || v / 4096 == 9) && v % 16 != 0) ||
  (v / 4096 == 8 && [8, 9, 0xA, 0xB, 0xC, 0xD, 0xF].contains (v % 16)) ||
  (v / 4096 == 0xE && !([0x9E, 0xA1].contains (v % 256))) ||
  (v / 4096 == 0xF && !([0x07, 0x0A, 0x15, 0x18, 0x1E, 0x29, 0x33, 0x55, 0x65].contains (v % 256)))

/-- The highest address a word's instruction touches in memory, where it is above 0x0FFF: the fourth row of
the table of spec/60_exceptions.md R250 (R257). -/
def memFaultAddr (i : Instr) (s : State) : Option Nat :=
  let last := match i with
    | .drw _ _ n => if n = 0 then 0 else s.i.toNat + n.toNat - 1
    | .ldBVx _ => s.i.toNat + 2
    | .storeRegs x | .loadRegs x => s.i.toNat + x.val
    | _ => 0
  if 0x0FFF < last then some last else none

/-- The fault a step from `s` ends in, by the table of R250; none where no row applies. `s` is the state
before the fetch. -/
def faultOf (s : State) : Option FaultRecord :=
  match s.fetch? with
  | none => some (.fetchOutOfRange s.pc)
  | some w =>
    match decodeWord w with
    | .rejected _ => some (.unknownOpcode s.pc w)
    | .instr .ret => if s.sp = 0 then some (.stackUnderflow s.pc w) else none
    | .instr (.call _) => if s.sp = 16 then some (.stackOverflow s.pc w) else none
    | .instr (.skp x) | .instr (.sknp x) =>
      if 15 < (s.getV x).toNat then some (.keyIndexOutOfRange s.pc w (s.getV x)) else none
    | .instr i => (memFaultAddr i s).map (fun addr => .memOutOfRange addr s.pc w)

/-- `pc` after a step that ends in no fault, by the table of spec/10_state.md R25. `s` is the state before
the fetch, `a` its `pc`. -/
def pcAfter (i : Instr) (s : State) : Nat :=
  let a := s.pc.toNat
  match i with
  | .seImm x kk => if s.getV x = kk then a + 4 else a + 2
  | .sneImm x kk => if s.getV x = kk then a + 2 else a + 4
  | .seReg x y => if s.getV x = s.getV y then a + 4 else a + 2
  | .sneReg x y => if s.getV x = s.getV y then a + 2 else a + 4
  | .skp x => if s.key.toList.getD (s.getV x).toNat false then a + 4 else a + 2
  | .sknp x => if s.key.toList.getD (s.getV x).toNat false then a + 2 else a + 4
  | .jp nnn | .call nnn => nnn.toNat
  | .ret => (s.stack.toList.getD (s.sp.toNat - 1) 0).toNat
  | .jpV0 nnn => (s.getV 0).toNat + nnn.toNat
  | .ldVxK _ => if s.key.toList.contains true then a + 2 else a
  | _ => a + 2

/-- The general register an instruction names as its destination `Vx` (spec/42_alu.md,
spec/45_keypad_timers.md R222, R223). -/
def destReg : Instr → Option RegIdx
  | .ldImm x _ | .addImm x _ | .rnd x _ => some x
  | .ldReg x _ | .orReg x _ | .andReg x _ | .xorReg x _ => some x
  | .addReg x _ | .subReg x _ | .shr x _ | .subnReg x _ | .shl x _ => some x
  | .ldVxDT x | .ldVxK x => some x
  | _ => none

/-- The six instructions that write `VF` as a flag (spec/10_state.md R22). -/
def writesFlag : Instr → Bool
  | .addReg _ _ | .subReg _ _ | .shr _ _ | .subnReg _ _ | .shl _ _ | .drw _ _ _ => true
  | _ => false

/-- The sprite of DRW, `n` rows at `(vx, vy)`, has a set bit on pixel `(px, py)`: the pixel's row and
column within the sprite, each axis wrapped on its own (spec/44_display.md R201, R202). -/
def spriteHits (s : State) (vx vy : Byte) (n : Nibble) (px py : Nat) : Bool :=
  let row := (py + 256 - vy.toNat) % 32
  let col := (px + 256 - vx.toNat) % 64
  decide (row < n.toNat) && decide (col < 8) && (s.byteAt (s.i.toNat + row)).getLsbD (7 - col)

end Sys2Proof.Machine
end

