-- ==== Sys2Proof/Certificates/Slice0/Obligations.lean ====
section
/-! DEFINITION. The statements for the provers. Statements about one instruction are about its execute
phase: the state has `pc` already past the instruction, `a` is `s.pc - 2`. -/

open Sys2Proof Sys2Proof.Machine

/-! ## Reset and the invariant -/

/-- Every element after CREATE, for every `FONT` of 80 bytes and every `PC_RESET` up to 0x0FFE (R37, R290).
That there is a fault latch at all is the spec's decision D7 (log entry 4). -/
def Obligations.ValuesAfterCreate : Prop :=
  ∀ c : Config, c.wellFormed = true → ∃ s : State, create c = some s ∧
    (∀ a, a < 0x050 → s.byteAt a = 0) ∧
    (∀ k (h : k < c.font.length), s.byteAt (0x050 + k) = c.font[k]) ∧
    (∀ a, 0x0A0 ≤ a → a ≤ 0xFFF → s.byteAt a = 0) ∧
    (∀ r : RegIdx, s.getV r = 0) ∧ s.i = 0 ∧ s.pc = c.pcReset ∧
    (∀ k : Fin 16, s.stack[k] = 0) ∧ s.sp = 0 ∧
    s.dt = 0 ∧ s.st = 0 ∧
    (∀ k : Fin 16, s.key[k] = false) ∧
    (∀ p, p < 2048 → s.fb.pixel p = false) ∧ s.halted = none

/-- The model's reset state is CREATE with the spec's default parameters: `PC_RESET` = 0x0200, the spec's
decision D1 (log entry 1), and the default `FONT`, decision D2 (log entry 2). -/
def Obligations.ResetIsCreateWithTheDefaults : Prop :=
  create Config.standard = some State.reset ∧ State.reset.pc.toNat = 0x0200 ∧
    (∀ a, a < 4096 → State.reset.byteAt a = resetByte a)

/-- The invariant of R38 holds after CREATE, whatever the parameters, and at the model's reset state (whose
`pc` is decision D1, log entry 1). The canonical form of memory in it is the model's (log entry 20). -/
def Obligations.InvHoldsAfterCreate : Prop :=
  (∀ c : Config, c.wellFormed = true → ∃ s : State, create c = some s ∧ s.Inv) ∧ State.reset.Inv

/-- A step from any state with the invariant keeps it: that of R38 together with the canonical form of memory,
which is the model's (log entry 20). -/
def Obligations.StepKeepsInv : Prop :=
  ∀ s t : State, s.Inv → step s = .next t → t.Inv

/-- Every run of the five events after CREATE (LOAD, STEP, TICK, SET_KEY, READ_FB) from a session whose
machine has the invariant keeps it. The invariant is that of R38 together with the canonical form of memory,
which is the model's (log entry 20); that CREATE gives it is InvHoldsAfterCreate. -/
def Obligations.RunOfEventsKeepsInv : Prop :=
  ∀ (p q : Session) (es : List Event), p.machine.Inv → p.run es = some q → q.machine.Inv

/-- Two memories in canonical form that read alike at the 4096 addresses are equal data (log entry 20). -/
def Obligations.CanonicalMemoryIsExtensional : Prop :=
  ∀ m n : Memory, m.wf → n.wf → (∀ a, a < 4096 → m.read a = n.read a) → m = n

/-! ## Encoding -/

/-- Decoding the word of an instruction gives the instruction back, every operand at every value. -/
def Obligations.DecodeOfEncode : Prop :=
  ∀ i : Instr, i.wellFormed = true →
    decodeWord (encode i) = .instr i ∧ decode (encodeBytes i) = .instr i

/-- A word that decodes is the word of the instruction it decodes to: no bit is dropped (R82, R83). -/
def Obligations.EncodeOfDecode : Prop :=
  ∀ (w : Word) (i : Instr), decodeWord w = .instr i → encode i = w

/-- A word selects the instruction whose mask and match it satisfies, and a word that satisfies none is
illegal (R85); the 35 rows are pairwise disjoint, which R85 marks as derived. -/
def Obligations.OpcodeRowsDisjoint : Prop :=
  opRows.length = 35 ∧
  (∀ (w : Word) (j k : Fin opRows.length),
    w &&& opRows[j].mask = opRows[j].code → w &&& opRows[k].mask = opRows[k].code → j = k) ∧
  (∀ (w : Word) (j : Fin opRows.length), w &&& opRows[j].mask = opRows[j].code →
    decodeWord w = .instr (opRows[j].build w)) ∧
  (∀ w : Word, (∀ j : Fin opRows.length, w &&& opRows[j].mask ≠ opRows[j].code) →
    decodeWord w = .rejected (.unknownOpcode w))

/-- The words the decoder rejects are exactly the ones R87 lists, and by the name `unknownOpcode`. -/
def Obligations.IllegalWordsAreExactlyTheListed : Prop :=
  ∀ w : Word, decodeWord w = .rejected (.unknownOpcode w) ↔ illegalWord w = true

/-- One word of each format, written out from R86. -/
def Obligations.WrittenWordsDecode : Prop :=
  decodeWord 0x00EE = .instr .ret ∧ decodeWord 0x1ABC = .instr (.jp 0xABC) ∧
  decodeWord 0x3A7F = .instr (.seImm 0xA 0x7F) ∧ decodeWord 0x8124 = .instr (.addReg 1 2) ∧
  decodeWord 0xD12F = .instr (.drw 1 2 0xF) ∧ decodeWord 0xE49E = .instr (.skp 4) ∧
  decodeWord 0xF365 = .instr (.loadRegs 3) ∧ decodeWord 0x8AB8 = .rejected (.unknownOpcode 0x8AB8)

/-! ## The step -/

/-- A step runs the instruction that the two bytes at `pc` decode to, high byte first, with `pc` already
advanced by 2, and adds nothing else (R110, R111). -/
def Obligations.StepRunsDecodedInstruction : Prop :=
  ∀ (s : State) (i : Instr), s.halted = none → s.pc.toNat ≤ 0x0FFE →
    decode [s.byteAt s.pc.toNat, s.byteAt (s.pc.toNat + 1)] = .instr i →
    step s = exec i { s with pc := s.pc + 2 }

/-- A step with a byte of the word outside memory halts with `FetchOutOfRange(pc)`, `pc` not advanced and
nothing else changed (R112, R256): the spec's decisions D3 and D7 (log entries 5 and 4). -/
def Obligations.FetchOutsideMemoryHalts : Prop :=
  ∀ s : State, s.halted = none → 0x0FFE < s.pc.toNat →
    step s = .next { s with halted := some (.fetchOutOfRange s.pc) }

/-- A step on an illegal word halts with `UnknownOpcode(a, w)`, `pc` at `a + 2` and nothing else changed
(R255): the spec's decisions D7 and D22 (log entries 4 and 18). -/
def Obligations.IllegalWordHalts : Prop :=
  ∀ (s : State) (w : Word), s.halted = none → s.pc.toNat ≤ 0x0FFE →
    w.toNat = 256 * (s.byteAt s.pc.toNat).toNat + (s.byteAt (s.pc.toNat + 1)).toNat →
    illegalWord w = true →
    step s = .next { s with pc := s.pc + 2, halted := some (.unknownOpcode s.pc w) }

/-- A halted machine has no step, and on a machine that is not halted a step is always enabled (R117): the
spec's decision D7 (log entry 4). `sp <= 16` holds in every reachable state (R28; StepKeepsInv). -/
def Obligations.StepEnabledExactlyWhenNotHalted : Prop :=
  (∀ (s : State) (r : FaultRecord), s.halted = some r → step s = .fault (.halted r)) ∧
  (∀ s : State, s.sp.toNat ≤ 16 → s.halted = none → ∃ t, step s = .next t)

/-- A step that faults changes only `pc`, advanced by the fetch unless the fetch itself faulted, and the
latch (R116, R251): the spec's decision D7 (log entry 4). -/
def Obligations.FaultChangesOnlyPcAndLatch : Prop :=
  ∀ (s t : State) (r : FaultRecord), step s = .next t → t.halted = some r →
    t = { s with pc := t.pc, halted := some r } ∧
    (0x0FFE < s.pc.toNat → t.pc = s.pc) ∧ (s.pc.toNat ≤ 0x0FFE → t.pc = s.pc + 2)

/-- A step ends in a fault exactly when a row of the table of R250 applies, and then in that row's record. Three
of the rows are the spec's decisions D3, D4 and D5 (log entries 5, 6, 7); the latch that holds the record is
decision D7 (log entry 4), and the address in the record of UnknownOpcode is decision D22 (log entry 18). -/
def Obligations.FaultsAreTheSixOfTheTable : Prop :=
  ∀ s t : State, step s = .next t → t.halted = faultOf s

/-- `pc` after every step (R25): the table's value where the step ends in no fault, `a + 2` after a fault at
execute, `a` after a fetch fault (decisions D3 and D7, log entries 5 and 4). -/
def Obligations.PcAfterEveryStep : Prop :=
  (∀ (s t : State) (w : Word) (i : Instr), s.fetch? = some w → decodeWord w = .instr i →
    step s = .next t →
    t.pc.toNat = if t.halted = none then pcAfter i s else s.pc.toNat + 2) ∧
  (∀ s t : State, 0x0FFE < s.pc.toNat → step s = .next t → t.pc = s.pc)

/-! ## Control flow -/

/-- NOP changes nothing, JP sets `pc` to `nnn`, JP V0 to `V0 + nnn` without wrapping (R130, R132, R138). -/
def Obligations.NopAndJumpsSetOnlyPc : Prop :=
  ∀ s : State,
    ((encode .nop).toNat = 0x0000 ∧ ∃ t, exec .nop s = .next t ∧ t.pc = s.pc ∧ keptButRegs [] s t) ∧
    (∀ nnn : Addr12, (encode (.jp nnn)).toNat = 0x1000 + nnn.toNat ∧
      ∃ t, exec (.jp nnn) s = .next t ∧ t.pc.toNat = nnn.toNat ∧ keptButRegs [] s t) ∧
    (∀ nnn : Addr12, (encode (.jpV0 nnn)).toNat = 0xB000 + nnn.toNat ∧
      ∃ t, exec (.jpV0 nnn) s = .next t ∧ t.pc.toNat = (s.getV 0).toNat + nnn.toNat ∧
        keptButRegs [] s t)

/-- The four compare-and-skip instructions (R134 to R137). -/
def Obligations.CompareSkipsAdvancePc : Prop :=
  ∀ (s : State) (x y : RegIdx) (kk : Byte),
    ((encode (.seImm x kk)).toNat = 0x3000 + 0x100 * x.val + kk.toNat ∧
      ∃ t, exec (.seImm x kk) s = .next t ∧ keptButRegs [] s t ∧
        t.pc = if (s.getV x).toNat = kk.toNat then s.pc + 2 else s.pc) ∧
    ((encode (.sneImm x kk)).toNat = 0x4000 + 0x100 * x.val + kk.toNat ∧
      ∃ t, exec (.sneImm x kk) s = .next t ∧ keptButRegs [] s t ∧
        t.pc = if (s.getV x).toNat ≠ kk.toNat then s.pc + 2 else s.pc) ∧
    ((encode (.seReg x y)).toNat = 0x5000 + 0x100 * x.val + 0x10 * y.val ∧
      ∃ t, exec (.seReg x y) s = .next t ∧ keptButRegs [] s t ∧
        t.pc = if (s.getV x).toNat = (s.getV y).toNat then s.pc + 2 else s.pc) ∧
    ((encode (.sneReg x y)).toNat = 0x9000 + 0x100 * x.val + 0x10 * y.val ∧
      ∃ t, exec (.sneReg x y) s = .next t ∧ keptButRegs [] s t ∧
        t.pc = if (s.getV x).toNat ≠ (s.getV y).toNat then s.pc + 2 else s.pc)

/-- CALL pushes the advanced `pc` and jumps while `sp < 16`; at 16 it halts with `StackOverflow` and changes
nothing else (R133, R254; the state after the fault is decision D7, log entry 4). -/
def Obligations.CallPushesReturnAddress : Prop :=
  ∀ (s : State) (nnn : Addr12),
    (encode (.call nnn)).toNat = 0x2000 + nnn.toNat ∧
    (s.sp.toNat < 16 → ∃ t, exec (.call nnn) s = .next t ∧ t.pc.toNat = nnn.toNat ∧
      t.sp.toNat = s.sp.toNat + 1 ∧
      (∀ k : Fin 16, t.stack[k] = if k.val = s.sp.toNat then s.pc else s.stack[k]) ∧
      keptButStack s t) ∧
    (s.sp.toNat = 16 → exec (.call nnn) s =
      .next { s with halted := some (.stackOverflow (s.pc - 2) (encode (.call nnn))) })

/-- RET pops the new `pc` and leaves the popped entry as it is while `sp > 0`; at 0 it halts with
`StackUnderflow` and changes nothing else (R131, R253). The kept entry is decision D10 (log entry 11), the
state after the fault decision D7 (log entry 4). -/
def Obligations.RetPopsReturnAddress : Prop :=
  ∀ s : State,
    (encode .ret).toNat = 0x00EE ∧
    (∀ k : Fin 16, s.sp.toNat = k.val + 1 → ∃ t, exec .ret s = .next t ∧ t.pc = s.stack[k] ∧
      t.sp.toNat = k.val ∧ t.stack = s.stack ∧ keptButStack s t) ∧
    (s.sp.toNat = 0 → exec .ret s =
      .next { s with halted := some (.stackUnderflow (s.pc - 2) 0x00EE) })

/-- RET after CALL, with whatever between them left stack and `sp` alone, comes back to the instruction after
the CALL (R131). -/
def Obligations.RetAfterCallRestoresPc : Prop :=
  ∀ (s : State) (nnn : Addr12), s.sp.toNat < 16 →
    ∃ t, exec (.call nnn) s = .next t ∧
      ∀ t' : State, t'.stack = t.stack → t'.sp = t.sp →
        ∃ u, exec .ret t' = .next u ∧ u.pc = s.pc ∧ u.sp = s.sp

/-- The model's own stop (log entry 17, DESIGN CHOICE): CALL and RET with `sp` above 16, a value R28 calls
unreachable. -/
def Obligations.StackPointerAboveSixteenStops : Prop :=
  ∀ (s : State) (nnn : Addr12), 16 < s.sp.toNat →
    exec (.call nnn) s = .fault (.stackPointerRange s.sp) ∧
    exec .ret s = .fault (.stackPointerRange s.sp)

/-! ## Registers and arithmetic -/

/-- Load, add without flag, move and the three bitwise operations (R150 to R155): the destination's new
value, no other register, `VF` included unless it is the destination. -/
def Obligations.LoadsAndLogicWriteOnlyVx : Prop :=
  ∀ (s : State) (x y : RegIdx) (kk : Byte),
    ((encode (.ldImm x kk)).toNat = 0x6000 + 0x100 * x.val + kk.toNat ∧
      ∃ t, exec (.ldImm x kk) s = .next t ∧ t.pc = s.pc ∧ keptButRegs [x] s t ∧ t.getV x = kk) ∧
    ((encode (.addImm x kk)).toNat = 0x7000 + 0x100 * x.val + kk.toNat ∧
      ∃ t, exec (.addImm x kk) s = .next t ∧ t.pc = s.pc ∧ keptButRegs [x] s t ∧
        (t.getV x).toNat = ((s.getV x).toNat + kk.toNat) % 256) ∧
    ((encode (.ldReg x y)).toNat = 0x8000 + 0x100 * x.val + 0x10 * y.val ∧
      ∃ t, exec (.ldReg x y) s = .next t ∧ t.pc = s.pc ∧ keptButRegs [x] s t ∧
        t.getV x = s.getV y) ∧
    ((encode (.orReg x y)).toNat = 0x8001 + 0x100 * x.val + 0x10 * y.val ∧
      ∃ t, exec (.orReg x y) s = .next t ∧ t.pc = s.pc ∧ keptButRegs [x] s t ∧
        ∀ k, (t.getV x).getLsbD k = ((s.getV x).getLsbD k || (s.getV y).getLsbD k)) ∧
    ((encode (.andReg x y)).toNat = 0x8002 + 0x100 * x.val + 0x10 * y.val ∧
      ∃ t, exec (.andReg x y) s = .next t ∧ t.pc = s.pc ∧ keptButRegs [x] s t ∧
        ∀ k, (t.getV x).getLsbD k = ((s.getV x).getLsbD k && (s.getV y).getLsbD k)) ∧
    ((encode (.xorReg x y)).toNat = 0x8003 + 0x100 * x.val + 0x10 * y.val ∧
      ∃ t, exec (.xorReg x y) s = .next t ∧ t.pc = s.pc ∧ keptButRegs [x] s t ∧
        ∀ k, (t.getV x).getLsbD k = ((s.getV x).getLsbD k != (s.getV y).getLsbD k))

/-- ADD and SUB with flag (R156, R157): `VF` always ends as the flag, computed from the values before; `Vx`
ends as the result unless it is `VF`. What happens where `VF` is an operand is decision D6 (log entry 8). -/
def Obligations.AddAndSubWriteResultThenFlag : Prop :=
  ∀ (s : State) (x y : RegIdx),
    ((encode (.addReg x y)).toNat = 0x8004 + 0x100 * x.val + 0x10 * y.val ∧
      ∃ t, exec (.addReg x y) s = .next t ∧ t.pc = s.pc ∧ keptButRegs [x, regF] s t ∧
        (x ≠ regF → (t.getV x).toNat = ((s.getV x).toNat + (s.getV y).toNat) % 256) ∧
        (t.getV regF).toNat = if 255 < (s.getV x).toNat + (s.getV y).toNat then 1 else 0) ∧
    ((encode (.subReg x y)).toNat = 0x8005 + 0x100 * x.val + 0x10 * y.val ∧
      ∃ t, exec (.subReg x y) s = .next t ∧ t.pc = s.pc ∧ keptButRegs [x, regF] s t ∧
        (x ≠ regF →
          ((t.getV x).toNat : Int) = ((s.getV x).toNat - (s.getV y).toNat : Int) % 256) ∧
        (t.getV regF).toNat = if (s.getV y).toNat ≤ (s.getV x).toNat then 1 else 0)

/-- The two shifts and SUBN (R158 to R160): `Vx` always ends as the result, computed from the values before;
`VF` ends as the flag unless it is `Vx`. `Vy` plays no part in a shift. What happens where `VF` is an operand
is decision D6 (log entry 8). -/
def Obligations.ShiftsAndSubnWriteFlagThenResult : Prop :=
  ∀ (s : State) (x y : RegIdx),
    ((encode (.shr x y)).toNat = 0x8006 + 0x100 * x.val + 0x10 * y.val ∧
      ∃ t, exec (.shr x y) s = .next t ∧ t.pc = s.pc ∧ keptButRegs [x, regF] s t ∧
        (t.getV x).toNat = (s.getV x).toNat / 2 ∧
        (x ≠ regF → (t.getV regF).toNat = (s.getV x).toNat % 2)) ∧
    ((encode (.subnReg x y)).toNat = 0x8007 + 0x100 * x.val + 0x10 * y.val ∧
      ∃ t, exec (.subnReg x y) s = .next t ∧ t.pc = s.pc ∧ keptButRegs [x, regF] s t ∧
        ((t.getV x).toNat : Int) = ((s.getV y).toNat - (s.getV x).toNat : Int) % 256 ∧
        (x ≠ regF →
          (t.getV regF).toNat = if (s.getV x).toNat < (s.getV y).toNat then 1 else 0)) ∧
    ((encode (.shl x y)).toNat = 0x800E + 0x100 * x.val + 0x10 * y.val ∧
      ∃ t, exec (.shl x y) s = .next t ∧ t.pc = s.pc ∧ keptButRegs [x, regF] s t ∧
        (t.getV x).toNat = (s.getV x).toNat * 2 % 256 ∧
        (x ≠ regF → (t.getV regF).toNat = (s.getV x).toNat / 128))

/-- RND (R161): `Vx` is the step's byte masked by `kk`, whatever that byte is; nothing else changes. In
`exec`, which is given no byte, it is the free value `Config.rnd` of the state, and the model's own count
of draws goes up by 1 (decision D12, log entry 3). -/
def Obligations.RndMasksTheStepsByte : Prop :=
  ∀ (s : State) (x : RegIdx) (kk : Byte),
    (encode (.rnd x kk)).toNat = 0xC000 + 0x100 * x.val + kk.toNat ∧
    (∀ byte : Byte, ∃ t, execDrawing byte (.rnd x kk) s = .next t ∧ t.pc = s.pc ∧
      (∀ k, (t.getV x).getLsbD k = (byte.getLsbD k && kk.getLsbD k)) ∧ keptButRegs [x] s t) ∧
    (∃ t, exec (.rnd x kk) s = .next t ∧ t.pc = s.pc ∧ t.draws = s.draws + 1 ∧
      (∀ k, (t.getV x).getLsbD k = ((Config.rnd s).getLsbD k && kk.getLsbD k)) ∧
      keptButRegs [x] s { t with draws := s.draws })

/-- "A step that is not `Cxkk` ignores `rnd`" (R161), and the machine's step does to the Machine State
what the event STEP does with the free byte of the state in its execute phase (log entry 3). -/
def Obligations.OnlyRndSeesTheStepsByte : Prop :=
  (∀ (s : State) (b c : Byte),
    (∀ w x kk, s.fetch? = some w → decodeWord w ≠ .instr (.rnd x kk)) →
    stepWith b s = stepWith c s) ∧
  (∀ s : State, onMachine (step s) = onMachine (stepWith (Config.rnd { s with pc := s.pc + 2 }) s))

/-! ## Index register and memory -/

/-- LD I and ADD I (R180, R181). -/
def Obligations.LoadAndAddIndexWriteOnlyI : Prop :=
  ∀ (s : State) (x : RegIdx) (nnn : Addr12),
    ((encode (.ldI nnn)).toNat = 0xA000 + nnn.toNat ∧
      ∃ t, exec (.ldI nnn) s = .next t ∧ t.pc = s.pc ∧ keptButI s t ∧ t.i.toNat = nnn.toNat) ∧
    ((encode (.addIVx x)).toNat = 0xF01E + 0x100 * x.val ∧
      ∃ t, exec (.addIVx x) s = .next t ∧ t.pc = s.pc ∧ keptButI s t ∧
        t.i.toNat = (s.i.toNat + (s.getV x).toNat) % 65536)

/-- LD F points `I` at the glyph of the whole byte `Vx` (R182): below 16 that is the base of glyph `Vx` in the
glyph region (R57); from 16 on the formula is applied unmasked, decision D11 (log entry 12). -/
def Obligations.FontAddressOfTheWholeByte : Prop :=
  ∀ (s : State) (x : RegIdx),
    (encode (.ldFVx x)).toNat = 0xF029 + 0x100 * x.val ∧
    ∃ t, exec (.ldFVx x) s = .next t ∧ t.pc = s.pc ∧ keptButI s t ∧
      t.i.toNat = 0x50 + 5 * (s.getV x).toNat

/-- LD B stores the three decimal digits at `I`, `I + 1`, `I + 2`; where one of them is outside memory it
halts with `MemOutOfRange` and stores nothing (R183; decision D4, log entry 6; `I` kept is D9, log entry 10). -/
def Obligations.BcdStoresThreeDigits : Prop :=
  ∀ (s : State) (x : RegIdx),
    (encode (.ldBVx x)).toNat = 0xF033 + 0x100 * x.val ∧
    (s.i.toNat + 2 ≤ 0x0FFF → ∃ t, exec (.ldBVx x) s = .next t ∧ t.pc = s.pc ∧
      (t.byteAt s.i.toNat).toNat = (s.getV x).toNat / 100 ∧
      (t.byteAt (s.i.toNat + 1)).toNat = (s.getV x).toNat / 10 % 10 ∧
      (t.byteAt (s.i.toNat + 2)).toNat = (s.getV x).toNat % 10 ∧
      keptButMem s.i.toNat 3 s t) ∧
    (0x0FFF < s.i.toNat + 2 → exec (.ldBVx x) s = .next { s with
      halted := some (.memOutOfRange (s.i.toNat + 2) (s.pc - 2) (encode (.ldBVx x))) })

/-- LD [I], Vx stores `V0 .. Vx` at `I` upward; where one of them would be outside memory it halts with
`MemOutOfRange` and stores nothing (R184; decision D4, log entry 6; `I` kept is D9, log entry 10). -/
def Obligations.StoreRegsWritesMemoryFromI : Prop :=
  ∀ (s : State) (x : RegIdx),
    (encode (.storeRegs x)).toNat = 0xF055 + 0x100 * x.val ∧
    (s.i.toNat + x.val ≤ 0x0FFF → ∃ t, exec (.storeRegs x) s = .next t ∧ t.pc = s.pc ∧
      (∀ k : RegIdx, k ≤ x → t.byteAt (s.i.toNat + k.val) = s.getV k) ∧
      keptButMem s.i.toNat (x.val + 1) s t) ∧
    (0x0FFF < s.i.toNat + x.val → exec (.storeRegs x) s = .next { s with
      halted := some (.memOutOfRange (s.i.toNat + x.val) (s.pc - 2) (encode (.storeRegs x))) })

/-- LD Vx, [I] loads `V0 .. Vx` from `I` upward and keeps the registers above `Vx`; where one byte would be
outside memory it halts with `MemOutOfRange` and loads nothing (R185; decision D4, log entry 6; `I` kept is
D9, log entry 10). -/
def Obligations.LoadRegsReadsMemoryFromI : Prop :=
  ∀ (s : State) (x : RegIdx),
    (encode (.loadRegs x)).toNat = 0xF065 + 0x100 * x.val ∧
    (s.i.toNat + x.val ≤ 0x0FFF → ∃ t, exec (.loadRegs x) s = .next t ∧ t.pc = s.pc ∧
      (∀ k : RegIdx, t.getV k = if k ≤ x then s.byteAt (s.i.toNat + k.val) else s.getV k) ∧
      keptButRegs ((List.finRange 16).filter (fun k => decide (k ≤ x))) s t) ∧
    (0x0FFF < s.i.toNat + x.val → exec (.loadRegs x) s = .next { s with
      halted := some (.memOutOfRange (s.i.toNat + x.val) (s.pc - 2) (encode (.loadRegs x))) })

/-- Registers stored and loaded again from the same `I`, with memory and `I` left alone between, come back
(spec/95_test_vectors.md T11). The load starts at the `I` the store left, which is the `I` before it by decision
D9 (log entry 10); that both complete where they do is decision D4 (log entry 6). -/
def Obligations.LoadAfterStoreRestoresRegisters : Prop :=
  ∀ (s : State) (x : RegIdx), s.i.toNat + x.val ≤ 0x0FFF →
    ∃ t, exec (.storeRegs x) s = .next t ∧
      ∀ t' : State, (∀ a, t'.byteAt a = t.byteAt a) → t'.i = t.i →
        ∃ u, exec (.loadRegs x) t' = .next u ∧ ∀ k : RegIdx, k ≤ x → u.getV k = s.getV k

/-- After either store the next fetch reads the stored bytes where they fall on the next instruction, and the
old ones elsewhere (R62): LD [I], Vx and LD B, Vx, over both bytes, one of them or none. -/
def Obligations.StoredBytesAreFetchedNext : Prop :=
  ∀ (s : State) (x : RegIdx), s.pc.toNat ≤ 0x0FFE →
    (∀ bs : List Byte, bs = ((List.finRange 16).take (x.val + 1)).map s.getV →
      s.i.toNat + x.val ≤ 0x0FFF →
      ∃ t, exec (.storeRegs x) s = .next t ∧
        t.fetch? = some (wordOf (s.byteUnder s.i.toNat bs s.pc.toNat)
          (s.byteUnder s.i.toNat bs (s.pc.toNat + 1)))) ∧
    (∀ bs : List Byte, bs.map BitVec.toNat =
        [(s.getV x).toNat / 100, (s.getV x).toNat / 10 % 10, (s.getV x).toNat % 10] →
      s.i.toNat + 2 ≤ 0x0FFF →
      ∃ t, exec (.ldBVx x) s = .next t ∧
        t.fetch? = some (wordOf (s.byteUnder s.i.toNat bs s.pc.toNat)
          (s.byteUnder s.i.toNat bs (s.pc.toNat + 1))))

/-! ## Display -/

/-- CLS unsets every pixel and changes nothing else, `VF` included (R200). -/
def Obligations.ClsUnsetsEveryPixel : Prop :=
  ∀ s : State, (encode .cls).toNat = 0x00E0 ∧
    ∃ t, exec .cls s = .next t ∧ t.pc = s.pc ∧ keptButFb [] s t ∧
      ∀ p, p < 2048 → t.fb.pixel p = false

/-- DRW (R201): every pixel is XORed with the sprite bit that falls on it, wrapped on each axis on its own;
`VF` is 1 exactly if a set pixel was hit, else 0; nothing else changes. Where a sprite byte is outside
memory it halts with `MemOutOfRange` and draws nothing (decision D4, log entry 6); a sprite of no rows reads
nothing. That `I` is kept is decision D9 (log entry 10); that a coordinate in `VF` is read before `VF` is written
is decision D6 (log entry 8). -/
def Obligations.DrwXorsSpriteAndReportsCollision : Prop :=
  ∀ (s : State) (x y : RegIdx) (n : Nibble),
    (encode (.drw x y n)).toNat = 0xD000 + 0x100 * x.val + 0x10 * y.val + n.toNat ∧
    (n = 0 ∨ s.i.toNat + n.toNat - 1 ≤ 0x0FFF → ∃ t, exec (.drw x y n) s = .next t ∧
      t.pc = s.pc ∧ keptButFb [regF] s t ∧
      (∀ px py, px < 64 → py < 32 → t.fb.pixel (px + 64 * py) =
        (s.fb.pixel (px + 64 * py) != spriteHits s (s.getV x) (s.getV y) n px py)) ∧
      (t.getV regF = 0 ∨ t.getV regF = 1) ∧
      (t.getV regF = 1 ↔ ∃ px py, px < 64 ∧ py < 32 ∧ s.fb.pixel (px + 64 * py) = true ∧
        spriteHits s (s.getV x) (s.getV y) n px py = true)) ∧
    (n ≠ 0 ∧ 0x0FFF < s.i.toNat + n.toNat - 1 → exec (.drw x y n) s = .next { s with
      halted := some (.memOutOfRange (s.i.toNat + n.toNat - 1) (s.pc - 2) (encode (.drw x y n))) })

/-- The same sprite drawn twice leaves the screen as it was; the second draw reports a collision exactly if a
pixel it hits was unset at the start (R201, R203). The second draw reads the same sprite because DRW leaves `I`
unchanged, decision D9 (log entry 10). With `VF` as a coordinate the first draw's flag moves the second, so the
two are not the same sprite at one place; DrwXorsSpriteAndReportsCollision covers each of them. -/
def Obligations.DrwTwiceRestoresTheScreen : Prop :=
  ∀ (s : State) (x y : RegIdx) (n : Nibble), x ≠ regF → y ≠ regF →
    s.i.toNat + n.toNat ≤ 0x1000 →
    ∃ t u, exec (.drw x y n) s = .next t ∧ exec (.drw x y n) t = .next u ∧ u.fb = s.fb ∧
      (u.getV regF = 1 ↔ ∃ px py, px < 64 ∧ py < 32 ∧ s.fb.pixel (px + 64 * py) = false ∧
        spriteHits s (s.getV x) (s.getV y) n px py = true)

/-! ## Keypad and timers -/

/-- SKP and SKNP test the key that the whole byte `Vx` names; above 15 they halt with
`KeyIndexOutOfRange` and change nothing else (R220, R221; decision D5, log entry 7). -/
def Obligations.KeySkipsTestTheKeyOrHalt : Prop :=
  ∀ (s : State) (x : RegIdx),
    (encode (.skp x)).toNat = 0xE09E + 0x100 * x.val ∧
    (encode (.sknp x)).toNat = 0xE0A1 + 0x100 * x.val ∧
    (∀ k : Fin 16, (s.getV x).toNat = k.val →
      (∃ t, exec (.skp x) s = .next t ∧ keptButRegs [] s t ∧
        t.pc = if s.key[k] = true then s.pc + 2 else s.pc) ∧
      (∃ t, exec (.sknp x) s = .next t ∧ keptButRegs [] s t ∧
        t.pc = if s.key[k] = true then s.pc else s.pc + 2)) ∧
    (15 < (s.getV x).toNat →
      exec (.skp x) s = .next { s with
        halted := some (.keyIndexOutOfRange (s.pc - 2) (encode (.skp x)) (s.getV x)) } ∧
      exec (.sknp x) s = .next { s with
        halted := some (.keyIndexOutOfRange (s.pc - 2) (encode (.sknp x)) (s.getV x)) })

/-- LD Vx, DT reads the delay timer; LD DT and LD ST write one timer each (R222, R224, R225). -/
def Obligations.TimerInstructionsMoveOneByte : Prop :=
  ∀ (s : State) (x : RegIdx),
    ((encode (.ldVxDT x)).toNat = 0xF007 + 0x100 * x.val ∧
      ∃ t, exec (.ldVxDT x) s = .next t ∧ t.pc = s.pc ∧ keptButRegs [x] s t ∧ t.getV x = s.dt) ∧
    ((encode (.ldDTVx x)).toNat = 0xF015 + 0x100 * x.val ∧
      ∃ t, exec (.ldDTVx x) s = .next t ∧ t.pc = s.pc ∧ keptButTimers s t ∧
        t.dt = s.getV x ∧ t.st = s.st) ∧
    ((encode (.ldSTVx x)).toNat = 0xF018 + 0x100 * x.val ∧
      ∃ t, exec (.ldSTVx x) s = .next t ∧ t.pc = s.pc ∧ keptButTimers s t ∧
        t.st = s.getV x ∧ t.dt = s.dt)

/-- LD Vx, K takes the lowest-indexed pressed key; with no key pressed it only takes `pc` back by 2, and the
whole step leaves the state as it was (R223). -/
def Obligations.KeyWaitTakesLowestKeyOrRepeats : Prop :=
  (∀ x : RegIdx, (encode (.ldVxK x)).toNat = 0xF00A + 0x100 * x.val) ∧
  (∀ (s : State) (x : RegIdx) (k : Fin 16), s.key[k] = true →
    (∀ j : Fin 16, j < k → s.key[j] = false) →
    ∃ t, exec (.ldVxK x) s = .next t ∧ t.pc = s.pc ∧ keptButRegs [x] s t ∧
      (t.getV x).toNat = k.val) ∧
  (∀ (s : State) (x : RegIdx), (∀ k : Fin 16, s.key[k] = false) →
    (∃ t, exec (.ldVxK x) s = .next t ∧ t.pc = s.pc - 2 ∧ keptButRegs [] s t) ∧
    (s.halted = none → s.fetch? = some (encode (.ldVxK x)) → step s = .next s))

/-- `JP a` at address `a` leaves the whole state unchanged (R295; log entry 24). -/
def Obligations.IdleLoopIsAFixedPoint : Prop := ∀ s : State, s.idle → step s = .next s

/-! ## The environment's events -/

/-- TICK takes each timer down by 1, floored at 0, and changes nothing else (R262). -/
def Obligations.TickCountsBothTimersDown : Prop :=
  ∀ s : State, (tick s).dt.toNat = s.dt.toNat - 1 ∧ (tick s).st.toNat = s.st.toNat - 1 ∧
    (tick s).pc = s.pc ∧ keptButTimers s (tick s)

/-- SET_KEY writes the one key, for indices 0 to 15, and changes nothing else (R266). -/
def Obligations.SetKeyWritesOneKey : Prop :=
  ∀ (p : Session) (k : Nat) (b : Bool), k < 16 →
    ∃ t : State, p.act (.setKey k b) = .moved { p with machine := t } .done ∧
      (∀ j : Fin 16, t.key[j] = if j.val = k then b else p.machine.key[j]) ∧
      t = { p.machine with key := t.key }

/-- LOAD of a program that fits writes its bytes from 0x200 upward and nothing else; of one that does not,
it fails and changes nothing (R63, R64, R65). -/
def Obligations.LoadCopiesProgramOrFails : Prop :=
  (∀ (s : State) (bytes : List Byte), 0x200 + bytes.length ≤ 4096 →
    ∃ t, load bytes s = .loaded t ∧
      (∀ k (h : k < bytes.length), t.byteAt (0x200 + k) = bytes[k]) ∧
      t.pc = s.pc ∧ keptButMem 0x200 bytes.length s t) ∧
  (∀ (p : Session) (bytes : List Byte), p.phase = .created → 4096 < 0x200 + bytes.length →
    load bytes p.machine = .outOfCapacity ∧ p.act (.load bytes) = .moved p .outOfCapacity)

/-- READ_FB returns the 2048 values of `fb` and changes nothing (R268). -/
def Obligations.ReadFbReturnsThePixels : Prop :=
  ∀ p : Session, p.phase = .loaded →
    ∃ f : Framebuffer, p.act .readFb = .moved p (.pixels f) ∧
      ∀ k, k < 2048 → f.pixel k = p.machine.fb.pixel k

/-- What the host must not do has no move (R66, R266, R293, R301; decisions D7, D14 and D15; log entry 14):
CREATE with other than 80 glyph bytes (R290) or with a `PC_RESET` above 0x0FFE (R292), STEP, TICK and READ_FB
before the program is loaded, a second LOAD, STEP after a fault, SET_KEY above 15. -/
def Obligations.BrokenHostDutiesHaveNoMove : Prop :=
  (∀ c : Config, c.font.length ≠ 80 ∨ 0x0FFE < c.pcReset.toNat →
    create c = none ∧ Session.start c = .noMove .createInput) ∧
  ∀ p : Session,
    (∀ k b, 16 ≤ k → p.act (.setKey k b) = .noMove .keyIndex) ∧
    (p.phase = .created → (∀ b, p.act (.step b) = .noMove .runBeforeLoad) ∧
      p.act .tick = .noMove .runBeforeLoad ∧ p.act .readFb = .noMove .runBeforeLoad) ∧
    (p.phase = .loaded → (∀ bytes, p.act (.load bytes) = .noMove .loadAfterLoad) ∧
      ∀ b r, p.machine.halted = some r → p.act (.step b) = .noMove .stepAfterFault)

/-- Halted is absorbing (R252; decision D7, log entry 4): no run of events from a halted machine holds a STEP or clears the latch,
while TICK, SET_KEY and READ_FB go on as usual. -/
def Obligations.HaltedIsAbsorbing : Prop :=
  (∀ (p q : Session) (es : List Event) (r : FaultRecord), p.machine.halted = some r →
    p.run es = some q → q.machine.halted = some r ∧ ∀ b, Event.step b ∉ es) ∧
  (∀ (p : Session) (r : FaultRecord), p.machine.halted = some r → p.phase = .loaded →
    p.act .tick = .moved { p with machine := tick p.machine } .done ∧
    (∀ k b, k < 16 → p.act (.setKey k b) =
      .moved { p with machine := setKey k b p.machine } .done) ∧
    p.act .readFb = .moved p (.pixels p.machine.fb))

/-- What moves in a session (R293, R66; which events wait for LOAD is DEDUCED, log entry 14): CREATE begins it;
a LOAD that fits takes it to its run; in the run STEP moves on a machine that is not halted (its depth one of R28),
to the state STEP gives, and TICK and READ_FB always move; SET_KEY moves at any time. -/
def Obligations.SessionMovesInTheBootOrder : Prop :=
  (∀ c : Config, c.font.length = 80 → c.pcReset.toNat ≤ 0x0FFE →
    ∃ s, create c = some s ∧ Session.start c = .moved { machine := s, phase := .created } .done) ∧
  (∀ (p : Session) (bytes : List Byte), p.phase = .created → 0x200 + bytes.length ≤ 4096 →
    ∃ t, load bytes p.machine = .loaded t ∧
      p.act (.load bytes) = .moved { machine := t, phase := .loaded } .done) ∧
  (∀ (p : Session) (b : Byte), p.phase = .loaded → p.machine.halted = none →
    p.machine.sp.toNat ≤ 16 → ∃ t, stepWith b p.machine = .next t ∧
      p.act (.step b) = .moved { p with machine := t } .done) ∧
  (∀ p : Session, p.phase = .loaded →
    p.act .tick = .moved { p with machine := tick p.machine } .done ∧
    p.act .readFb = .moved p (.pixels p.machine.fb)) ∧
  (∀ (p : Session) (k : Nat) (b : Bool), k < 16 →
    p.act (.setKey k b) = .moved { p with machine := setKey k b p.machine } .done)

/-- The count of draws is no state of the machine (R20, R35; log entry 3): no event after CREATE writes it, and
STEP, its byte given, does the same to the Machine State whatever the count is. -/
def Obligations.NoEventReadsOrWritesTheCountOfDraws : Prop :=
  (∀ (p q : Session) (e : Event) (r : Response), p.act e = .moved q r →
    q.machine.draws = p.machine.draws) ∧
  (∀ (s : State) (b : Byte) (n : Nat),
    onMachine (stepWith b { s with draws := n }) = onMachine (stepWith b s))

/-- When `step` is RND, `Vx` becomes the free byte of the state in its execute phase, masked by `kk`, and a draw
is counted; no other step counts one. So no two RND steps of one run take the free value of one state (R35; the
free value is the model's form of the step's input, log entry 3). -/
def Obligations.EachRndStepTakesItsOwnFreeByte : Prop :=
  ∀ s t : State, step s = .next t →
    (∀ x kk, s.fetch? = some (encode (.rnd x kk)) → t.draws = s.draws + 1 ∧
      ∀ k, (t.getV x).getLsbD k =
        ((Config.rnd { s with pc := s.pc + 2 }).getLsbD k && kk.getLsbD k)) ∧
    ((∀ x kk, s.fetch? ≠ some (encode (.rnd x kk))) → t.draws = s.draws)

/-! ## Whole-machine rules -/

/-- Which instruction may change which element (R23, R27, R29 to R32; spec/95_test_vectors.md Part 4):
framebuffer, memory, keypad, timers, `I`, stack and `sp`. That the memory and display instructions are not among
those that write `I` is decision D9 (log entry 10), and that RET does not write the stack is decision D10 (log
entry 11). -/
def Obligations.OnlyTheNamedInstructionsWriteEachElement : Prop :=
  ∀ (i : Instr) (s t : State), exec i s = .next t →
    (t.fb ≠ s.fb → i = .cls ∨ ∃ x y n, i = .drw x y n) ∧
    ((∃ a, t.byteAt a ≠ s.byteAt a) → (∃ x, i = .ldBVx x) ∨ ∃ x, i = .storeRegs x) ∧
    t.key = s.key ∧
    (t.dt ≠ s.dt → ∃ x, i = .ldDTVx x) ∧ (t.st ≠ s.st → ∃ x, i = .ldSTVx x) ∧
    (t.i ≠ s.i → (∃ nnn, i = .ldI nnn) ∨ (∃ x, i = .addIVx x) ∨ ∃ x, i = .ldFVx x) ∧
    (t.stack ≠ s.stack → ∃ nnn, i = .call nnn) ∧
    (t.sp ≠ s.sp → i = .ret ∨ ∃ nnn, i = .call nnn)

/-- A general register changes only as a destination `Vx`, as one of the registers LD Vx, [I] loads, or, for
`VF`, as the flag of the six instructions of R22. -/
def Obligations.RegistersChangeOnlyAsDestinationOrFlag : Prop :=
  ∀ (i : Instr) (s t : State) (r : RegIdx), exec i s = .next t → t.getV r ≠ s.getV r →
    destReg i = some r ∨ (∃ x, i = .loadRegs x ∧ r ≤ x) ∨ (r = regF ∧ writesFlag i = true)

/-- `ST` has no effect on any other state, the spec's decision D20 (R30; log entry 16): two machines that differ
only in it still do after the event STEP with the same byte. The second clause says it of `step`, which takes a
free byte of each of the two states (log entry 3): there the registers too are alike unless the step is RND, whose
two bytes nothing relates (R35). -/
def Obligations.SoundTimerDoesNotInterfere : Prop :=
  (∀ (s t : State) (rnd b : Byte), stepWith rnd s = .next t →
    ∃ c : Byte, stepWith rnd { s with st := b } = .next { t with st := c }) ∧
  (∀ (s t : State) (b : Byte), step s = .next t →
    ∃ (c : Byte) (u : State), step { s with st := b } = .next u ∧ u = { t with st := c, v := u.v } ∧
      ((∀ x kk, s.fetch? ≠ some (encode (.rnd x kk))) → u.v = t.v))

/-- The host's placing of a word (log entry 22): the very next step runs the instruction the decoder reads
from it. -/
def Obligations.PlacedWordRunsNext : Prop :=
  ∀ (s : State) (w : Nat) (i : Instr), decodeTableWord 16 w = some i →
    step (s.withFetchWord 16 w) =
      exec i { s.withFetchWord 16 w with pc := (s.withFetchWord 16 w).pc + 2 }
end

