-- ==== Sys2Proof/Laws/Decode.lean ====
section
/-! SUPPORT. The opcode map: two rows never select the same word. -/

namespace Sys2Proof

/-- Two rows are told apart by a bit that both fix, to different values. -/
def OpRow.apart (r q : OpRow) : Bool := r.mask &&& q.mask &&& (r.code ^^^ q.code) != 0

/-- Every two of the 35 rows are told apart by a fixed bit (R85). -/
theorem opRows_apart : opRows.Pairwise (fun r q => r.apart q) := by decide

/-- Rows told apart select no word in common. -/
theorem OpRow.apart_selects {r q : OpRow} (h : r.apart q) {w : Word} (hr : r.selects w)
    (hq : q.selects w) : False := by
  simp only [OpRow.apart, OpRow.selects, bne_iff_ne, ne_eq, beq_iff_eq] at h hr hq
  apply h
  rw [← hr, ← hq]
  ext k hk
  simp only [BitVec.getElem_and, BitVec.getElem_xor]
  cases w[k] <;> cases r.mask[k] <;> cases q.mask[k] <;> simp

/-- The row that selects a word is the one the decoder finds (R85: the order of the rows does not
matter). -/
theorem decodeWord_of_selects {r : OpRow} (hr : r ∈ opRows) {w : Word} (h : r.selects w) :
    decodeWord w = .instr (r.build w) := by
  have key : ∀ rows : List OpRow, rows.Pairwise (fun r q => r.apart q) → r ∈ rows →
      rows.find? (fun q => q.selects w) = some r := by
    intro rows hp hm
    induction rows with
    | nil => simp at hm
    | cons q rows ih =>
      rw [List.pairwise_cons] at hp
      by_cases hq : q.selects w
      · rcases List.mem_cons.1 hm with rfl | hm
        · simp [hq]
        · exact absurd h (fun h => OpRow.apart_selects (hp.1 r hm) hq h)
      · rcases List.mem_cons.1 hm with rfl | hm
        · exact absurd h hq
        · simp [hq, ih hp.2 hm]
  simp [decodeWord, key opRows opRows_apart hr]

/-- A word is rejected exactly when no row selects it, and by its own name (R87). -/
theorem decodeWord_rejected {w : Word} {e : DecodeError} :
    decodeWord w = .rejected e ↔ e = .unknownOpcode w ∧ ∀ r ∈ opRows, r.selects w = false := by
  unfold decodeWord
  cases hf : opRows.find? (fun r => r.selects w) with
  | some r =>
    have h1 := List.find?_some hf
    have h2 := List.mem_of_find?_eq_some hf
    simp only [reduceCtorEq, false_iff, not_and]
    intro _ h3
    simp [h3 r h2] at h1
  | none =>
    simp only [Decoded.rejected.injEq]
    constructor
    · rintro rfl
      exact ⟨rfl, by simpa using List.find?_eq_none.1 hf⟩
    · exact fun h => h.1.symm

end Sys2Proof
end

