-- ==== Sys2Proof/Laws/Encode.lean ====
section
/-! SUPPORT. The words of each format as numbers, the fields read back from them, and a word cut into its
two bytes and put together again. -/

namespace Sys2Proof

/-- A word of format `A` as a number (spec/30_encoding.md R83). -/
theorem toNat_encA (op : Nibble) (nnn : Addr12) :
    (encA op nnn).toNat = 4096 * op.toNat + nnn.toNat := by
  have h : nibbleAt 12 op &&& nnn.setWidth 16 = 0 := by
    ext k hk
    interval_cases k <;> simp [nibbleAt]
  rw [encA, ← BitVec.add_eq_or_of_and_eq_zero _ _ h, BitVec.toNat_add]
  have := op.isLt
  have := nnn.isLt
  simp [nibbleAt, Nat.shiftLeft_eq]
  omega

/-- A word of format `I` or `X` as a number (R83). -/
theorem toNat_encI (op : Nibble) (x : RegIdx) (kk : Byte) :
    (encI op x kk).toNat = 4096 * op.toNat + 256 * x.val + kk.toNat := by
  have h1 : nibbleAt 12 op &&& nibbleAt 8 (regField x) = 0 := by
    ext k hk
    interval_cases k <;> simp [nibbleAt]
  have h2 : (nibbleAt 12 op + nibbleAt 8 (regField x)) &&& kk.setWidth 16 = 0 := by
    rw [BitVec.add_eq_or_of_and_eq_zero _ _ h1]
    ext k hk
    interval_cases k <;> simp [nibbleAt]
  rw [encI, ← BitVec.add_eq_or_of_and_eq_zero _ _ h1, ← BitVec.add_eq_or_of_and_eq_zero _ _ h2,
    BitVec.toNat_add, BitVec.toNat_add]
  have := op.isLt
  have := x.isLt
  have := kk.isLt
  simp [nibbleAt, Nat.shiftLeft_eq, regField]
  omega

/-- A word of format `R` or `D` as a number (R83). -/
theorem toNat_encR (op : Nibble) (x y : RegIdx) (n : Nibble) :
    (encR op x y n).toNat = 4096 * op.toNat + 256 * x.val + 16 * y.val + n.toNat := by
  have h1 : nibbleAt 12 op &&& nibbleAt 8 (regField x) = 0 := by
    ext k hk
    interval_cases k <;> simp [nibbleAt]
  have h2 : (nibbleAt 12 op + nibbleAt 8 (regField x)) &&& nibbleAt 4 (regField y) = 0 := by
    rw [BitVec.add_eq_or_of_and_eq_zero _ _ h1]
    ext k hk
    interval_cases k <;> simp [nibbleAt]
  have h3 : (nibbleAt 12 op + nibbleAt 8 (regField x) + nibbleAt 4 (regField y)) &&&
      nibbleAt 0 n = 0 := by
    rw [BitVec.add_eq_or_of_and_eq_zero _ _ h2, BitVec.add_eq_or_of_and_eq_zero _ _ h1]
    ext k hk
    interval_cases k <;> simp [nibbleAt]
  rw [encR, ← BitVec.add_eq_or_of_and_eq_zero _ _ h1, ← BitVec.add_eq_or_of_and_eq_zero _ _ h2,
    ← BitVec.add_eq_or_of_and_eq_zero _ _ h3, BitVec.toNat_add, BitVec.toNat_add, BitVec.toNat_add]
  have := op.isLt
  have := x.isLt
  have := y.isLt
  have := n.isLt
  simp [nibbleAt, Nat.shiftLeft_eq, regField]
  omega

/-- Field `x` as a number (R82). -/
theorem val_fieldX (w : Word) : (fieldX w).val = w.toNat / 256 % 16 := by
  simp [fieldX, Nat.shiftRight_eq_div_pow]

/-- Field `y` as a number (R82). -/
theorem val_fieldY (w : Word) : (fieldY w).val = w.toNat / 16 % 16 := by
  simp [fieldY, Nat.shiftRight_eq_div_pow]

/-- Field `n` as a number (R82). -/
theorem toNat_fieldN (w : Word) : (fieldN w).toNat = w.toNat % 16 := by
  simp [fieldN]

/-- Field `kk` as a number (R82). -/
theorem toNat_fieldKK (w : Word) : (fieldKK w).toNat = w.toNat % 256 := by
  simp [fieldKK]

/-- Field `nnn` as a number (R82). -/
theorem toNat_fieldNNN (w : Word) : (fieldNNN w).toNat = w.toNat % 4096 := by
  simp [fieldNNN]

@[simp] theorem fieldNNN_encA (op : Nibble) (nnn : Addr12) : fieldNNN (encA op nnn) = nnn := by
  apply BitVec.eq_of_toNat_eq
  have := nnn.isLt
  rw [toNat_fieldNNN, toNat_encA]
  omega

@[simp] theorem fieldX_encI (op : Nibble) (x : RegIdx) (kk : Byte) : fieldX (encI op x kk) = x := by
  apply Fin.ext
  have := x.isLt
  have := kk.isLt
  rw [val_fieldX, toNat_encI]
  omega

@[simp] theorem fieldKK_encI (op : Nibble) (x : RegIdx) (kk : Byte) :
    fieldKK (encI op x kk) = kk := by
  apply BitVec.eq_of_toNat_eq
  have := kk.isLt
  rw [toNat_fieldKK, toNat_encI]
  omega

@[simp] theorem fieldX_encR (op : Nibble) (x y : RegIdx) (n : Nibble) :
    fieldX (encR op x y n) = x := by
  apply Fin.ext
  have := x.isLt
  have := y.isLt
  have := n.isLt
  rw [val_fieldX, toNat_encR]
  omega

@[simp] theorem fieldY_encR (op : Nibble) (x y : RegIdx) (n : Nibble) :
    fieldY (encR op x y n) = y := by
  apply Fin.ext
  have := y.isLt
  have := n.isLt
  rw [val_fieldY, toNat_encR]
  omega

@[simp] theorem fieldN_encR (op : Nibble) (x y : RegIdx) (n : Nibble) :
    fieldN (encR op x y n) = n := by
  apply BitVec.eq_of_toNat_eq
  have := n.isLt
  rw [toNat_fieldN, toNat_encR]
  omega

/-- The word of two bytes as a number (R81). -/
theorem toNat_wordOf (hi lo : Byte) : (wordOf hi lo).toNat = hi.toNat * 256 + lo.toNat := by
  have := hi.isLt
  have := lo.isLt
  simp [wordOf]
  omega

/-- A word is made of its own two bytes (R81). -/
@[simp] theorem wordOf_highByte_lowByte (w : Word) : wordOf (highByte w) (lowByte w) = w := by
  apply BitVec.eq_of_toNat_eq
  have := w.isLt
  rw [toNat_wordOf]
  simp [highByte, lowByte, Nat.shiftRight_eq_div_pow]
  omega

end Sys2Proof
end

