-- ==== Sys2Proof/Laws/Memory.lean ====
section
/-! SUPPORT. Memory: a read after a write, what a write leaves alone, and the canonical form kept. -/

namespace Sys2Proof.Machine

theorem read_drop (m : Memory) (a c : Nat) :
    (Memory.drop m a).read c = if c = a then resetByte a else m.read c := by
  induction m with
  | nil => simp only [Memory.drop, List.filter_nil, Memory.read]; split <;> simp_all
  | cons d m ih =>
    obtain ⟨k, b⟩ := d
    simp only [Memory.drop, List.filter_cons, bne_iff_ne, ne_eq] at ih ⊢
    by_cases hk : k = a
    · subst hk
      by_cases hc : c = k
      · subst hc; simpa using ih
      · simp [hc, Ne.symm hc, ih, Memory.read]
    · by_cases hc : k = c
      · subst hc; simp [hk, Memory.read]
      · simp [hk, hc, ih, Memory.read]

theorem read_insert (m : Memory) (a : Nat) (b : Byte) (c : Nat) :
    (Memory.insert m a b).read c = if c = a then b else m.read c := by
  induction m with
  | nil => simp [Memory.insert, Memory.read, eq_comm]
  | cons d m ih =>
    obtain ⟨k, b'⟩ := d
    by_cases hk : k < a
    · by_cases hc : k = c
      · subst hc
        simp [Memory.insert, hk, Memory.read, Nat.ne_of_lt hk]
      · simp [Memory.insert, hk, Memory.read, hc, ih]
    · simp [Memory.insert, hk, Memory.read, eq_comm]

/-- A byte reads as last written, every other byte as before (R55, R56). -/
@[simp] theorem read_write (m : Memory) (a : Nat) (b : Byte) (c : Nat) :
    (Memory.write m a b).read c = if c = a then b else m.read c := by
  unfold Memory.write
  split
  · next h => rw [read_drop, h]
  · rw [read_insert, read_drop]; split <;> simp_all

theorem wf_drop {m : Memory} (h : m.wf) (a : Nat) : Memory.wf (Memory.drop m a) :=
  ⟨h.1.filter _, fun c hc => h.2 c (List.mem_of_mem_filter hc)⟩

theorem mem_insert {m : Memory} {a : Nat} {b : Byte} {c : Host.Cell} :
    c ∈ Memory.insert m a b ↔ c = (a, b) ∨ c ∈ m := by
  induction m with
  | nil => simp [Memory.insert]
  | cons d m ih =>
    obtain ⟨k, b'⟩ := d
    by_cases hk : k < a
    · simp [Memory.insert, hk, ih, or_left_comm]
    · simp [Memory.insert, hk]

theorem rising_insert {m : Memory} {a : Nat} {b : Byte} (h : m.Pairwise (fun c d => c.1 < d.1))
    (ha : ∀ c ∈ m, c.1 ≠ a) : (Memory.insert m a b).Pairwise (fun c d => c.1 < d.1) := by
  induction m with
  | nil => simp [Memory.insert]
  | cons d m ih =>
    obtain ⟨k, b'⟩ := d
    simp only [List.pairwise_cons, List.mem_cons, forall_eq_or_imp] at h ha
    by_cases hk : k < a
    · simp only [Memory.insert, hk, ↓reduceIte, List.pairwise_cons]
      refine ⟨fun c hc => ?_, ih h.2 ha.2⟩
      rcases mem_insert.1 hc with rfl | hc
      · exact hk
      · exact h.1 c hc
    · have hak : a < k := by have := ha.1; omega
      simp only [Memory.insert, hk, ↓reduceIte, List.pairwise_cons, List.mem_cons, forall_eq_or_imp]
      exact ⟨⟨hak, fun c hc => hak.trans (h.1 c hc)⟩, h.1, h.2⟩

/-- A write to an address that exists keeps the canonical form. -/
theorem wf_write {m : Memory} (h : m.wf) {a : Nat} (ha : a < memSize) (b : Byte) :
    Memory.wf (Memory.write m a b) := by
  unfold Memory.write
  split
  · exact wf_drop h a
  · next hb =>
    have hd := wf_drop h a
    refine ⟨rising_insert hd.1 (fun c hc => ?_), fun c hc => ?_⟩
    · simpa using (List.mem_filter.1 hc).2
    · rcases mem_insert.1 hc with rfl | hc
      · exact ⟨ha, hb⟩
      · exact hd.2 c hc

@[simp] theorem length_readSpan (m : Memory) (a n : Nat) : (m.readSpan a n).length = n := by
  induction n generalizing a with
  | zero => rfl
  | succ n ih => simp [Memory.readSpan, ih]

/-- Byte `k` of a read of many bytes is the byte at `a + k` (R53, R186). -/
@[simp] theorem getElem_readSpan (m : Memory) (a n k : Nat) (h : k < (m.readSpan a n).length) :
    (m.readSpan a n)[k] = m.read (a + k) := by
  induction n generalizing a k with
  | zero => simp at h
  | succ n ih =>
    cases k with
    | zero => simp [Memory.readSpan]
    | succ k =>
      simp only [Memory.readSpan, List.getElem_cons_succ]
      rw [ih]
      congr 1; omega

/-- What a write of many bytes leaves at each address (R53, R56). -/
theorem read_writeSpan (m : Memory) (a : Nat) (bs : List Byte) (c : Nat) :
    (m.writeSpan a bs).read c = if a ≤ c then bs.getD (c - a) (m.read c) else m.read c := by
  induction bs generalizing m a with
  | nil => simp [Memory.writeSpan]
  | cons b bs ih =>
    simp only [Memory.writeSpan, ih, read_write]
    by_cases h1 : a + 1 ≤ c
    · have h2 : c - a = (c - (a + 1)) + 1 := by omega
      simp [h1, show a ≤ c by omega, show c ≠ a by omega, h2]
    · by_cases h2 : c = a
      · subst h2; simp
      · simp [h1, h2, show ¬ a ≤ c by omega]

/-- An address outside the bytes written reads as before. -/
theorem read_writeSpan_outside (m : Memory) (a : Nat) (bs : List Byte) {c : Nat}
    (h : ¬ (a ≤ c ∧ c < a + bs.length)) : (m.writeSpan a bs).read c = m.read c := by
  rw [read_writeSpan]
  split
  · next h1 =>
    rw [List.getD_eq_default]
    omega
  · rfl

/-- Writes to addresses that exist keep the canonical form. -/
theorem wf_writeSpan {m : Memory} (h : m.wf) {a : Nat} {bs : List Byte}
    (ha : a + bs.length ≤ memSize) : Memory.wf (m.writeSpan a bs) := by
  induction bs generalizing m a with
  | nil => exact h
  | cons b bs ih =>
    simp only [List.length_cons] at ha
    exact ih (wf_write h (by omega) b) (by omega)

end Sys2Proof.Machine
end

