-- ==== Sys2Proof/Laws/State.lean ====
section
/-! SUPPORT. One lemma for each field and each update of the state, true by `rfl`: the field that is written
and the ones that are kept. -/

namespace Sys2Proof.Machine

section setV

variable (s : State) (r : RegIdx) (b : Byte)

@[simp] theorem setV_mem : (s.setV r b).mem = s.mem := rfl
@[simp] theorem setV_v : (s.setV r b).v = s.v.set r b := rfl
@[simp] theorem setV_i : (s.setV r b).i = s.i := rfl
@[simp] theorem setV_pc : (s.setV r b).pc = s.pc := rfl
@[simp] theorem setV_stack : (s.setV r b).stack = s.stack := rfl
@[simp] theorem setV_sp : (s.setV r b).sp = s.sp := rfl
@[simp] theorem setV_dt : (s.setV r b).dt = s.dt := rfl
@[simp] theorem setV_st : (s.setV r b).st = s.st := rfl
@[simp] theorem setV_key : (s.setV r b).key = s.key := rfl
@[simp] theorem setV_fb : (s.setV r b).fb = s.fb := rfl
@[simp] theorem setV_halted : (s.setV r b).halted = s.halted := rfl
@[simp] theorem setV_draws : (s.setV r b).draws = s.draws := rfl
@[simp] theorem setV_byteAt (a : Nat) : (s.setV r b).byteAt a = s.byteAt a := rfl

end setV

section setRegs

variable (s : State) (v : Vector Byte 16)

@[simp] theorem setRegs_mem : (s.setRegs v).mem = s.mem := rfl
@[simp] theorem setRegs_v : (s.setRegs v).v = v := rfl
@[simp] theorem setRegs_i : (s.setRegs v).i = s.i := rfl
@[simp] theorem setRegs_pc : (s.setRegs v).pc = s.pc := rfl
@[simp] theorem setRegs_stack : (s.setRegs v).stack = s.stack := rfl
@[simp] theorem setRegs_sp : (s.setRegs v).sp = s.sp := rfl
@[simp] theorem setRegs_dt : (s.setRegs v).dt = s.dt := rfl
@[simp] theorem setRegs_st : (s.setRegs v).st = s.st := rfl
@[simp] theorem setRegs_key : (s.setRegs v).key = s.key := rfl
@[simp] theorem setRegs_fb : (s.setRegs v).fb = s.fb := rfl
@[simp] theorem setRegs_halted : (s.setRegs v).halted = s.halted := rfl
@[simp] theorem setRegs_draws : (s.setRegs v).draws = s.draws := rfl
@[simp] theorem setRegs_byteAt (a : Nat) : (s.setRegs v).byteAt a = s.byteAt a := rfl

end setRegs

section setI

variable (s : State) (w : Word)

@[simp] theorem setI_mem : (s.setI w).mem = s.mem := rfl
@[simp] theorem setI_v : (s.setI w).v = s.v := rfl
@[simp] theorem setI_i : (s.setI w).i = w := rfl
@[simp] theorem setI_pc : (s.setI w).pc = s.pc := rfl
@[simp] theorem setI_stack : (s.setI w).stack = s.stack := rfl
@[simp] theorem setI_sp : (s.setI w).sp = s.sp := rfl
@[simp] theorem setI_dt : (s.setI w).dt = s.dt := rfl
@[simp] theorem setI_st : (s.setI w).st = s.st := rfl
@[simp] theorem setI_key : (s.setI w).key = s.key := rfl
@[simp] theorem setI_fb : (s.setI w).fb = s.fb := rfl
@[simp] theorem setI_halted : (s.setI w).halted = s.halted := rfl
@[simp] theorem setI_draws : (s.setI w).draws = s.draws := rfl
@[simp] theorem setI_getV (q : RegIdx) : (s.setI w).getV q = s.getV q := rfl
@[simp] theorem setI_byteAt (a : Nat) : (s.setI w).byteAt a = s.byteAt a := rfl

end setI

section setPc

variable (s : State) (w : Word)

@[simp] theorem setPc_mem : (s.setPc w).mem = s.mem := rfl
@[simp] theorem setPc_v : (s.setPc w).v = s.v := rfl
@[simp] theorem setPc_i : (s.setPc w).i = s.i := rfl
@[simp] theorem setPc_pc : (s.setPc w).pc = w := rfl
@[simp] theorem setPc_stack : (s.setPc w).stack = s.stack := rfl
@[simp] theorem setPc_sp : (s.setPc w).sp = s.sp := rfl
@[simp] theorem setPc_dt : (s.setPc w).dt = s.dt := rfl
@[simp] theorem setPc_st : (s.setPc w).st = s.st := rfl
@[simp] theorem setPc_key : (s.setPc w).key = s.key := rfl
@[simp] theorem setPc_fb : (s.setPc w).fb = s.fb := rfl
@[simp] theorem setPc_halted : (s.setPc w).halted = s.halted := rfl
@[simp] theorem setPc_draws : (s.setPc w).draws = s.draws := rfl
@[simp] theorem setPc_getV (q : RegIdx) : (s.setPc w).getV q = s.getV q := rfl
@[simp] theorem setPc_byteAt (a : Nat) : (s.setPc w).byteAt a = s.byteAt a := rfl

end setPc

section setStack

variable (s : State) (k : Vector Word 16)

@[simp] theorem setStack_mem : (s.setStack k).mem = s.mem := rfl
@[simp] theorem setStack_v : (s.setStack k).v = s.v := rfl
@[simp] theorem setStack_i : (s.setStack k).i = s.i := rfl
@[simp] theorem setStack_pc : (s.setStack k).pc = s.pc := rfl
@[simp] theorem setStack_stack : (s.setStack k).stack = k := rfl
@[simp] theorem setStack_sp : (s.setStack k).sp = s.sp := rfl
@[simp] theorem setStack_dt : (s.setStack k).dt = s.dt := rfl
@[simp] theorem setStack_st : (s.setStack k).st = s.st := rfl
@[simp] theorem setStack_key : (s.setStack k).key = s.key := rfl
@[simp] theorem setStack_fb : (s.setStack k).fb = s.fb := rfl
@[simp] theorem setStack_halted : (s.setStack k).halted = s.halted := rfl
@[simp] theorem setStack_draws : (s.setStack k).draws = s.draws := rfl
@[simp] theorem setStack_getV (q : RegIdx) : (s.setStack k).getV q = s.getV q := rfl
@[simp] theorem setStack_byteAt (a : Nat) : (s.setStack k).byteAt a = s.byteAt a := rfl

end setStack

section setSp

variable (s : State) (b : Byte)

@[simp] theorem setSp_mem : (s.setSp b).mem = s.mem := rfl
@[simp] theorem setSp_v : (s.setSp b).v = s.v := rfl
@[simp] theorem setSp_i : (s.setSp b).i = s.i := rfl
@[simp] theorem setSp_pc : (s.setSp b).pc = s.pc := rfl
@[simp] theorem setSp_stack : (s.setSp b).stack = s.stack := rfl
@[simp] theorem setSp_sp : (s.setSp b).sp = b := rfl
@[simp] theorem setSp_dt : (s.setSp b).dt = s.dt := rfl
@[simp] theorem setSp_st : (s.setSp b).st = s.st := rfl
@[simp] theorem setSp_key : (s.setSp b).key = s.key := rfl
@[simp] theorem setSp_fb : (s.setSp b).fb = s.fb := rfl
@[simp] theorem setSp_halted : (s.setSp b).halted = s.halted := rfl
@[simp] theorem setSp_draws : (s.setSp b).draws = s.draws := rfl
@[simp] theorem setSp_getV (q : RegIdx) : (s.setSp b).getV q = s.getV q := rfl
@[simp] theorem setSp_byteAt (a : Nat) : (s.setSp b).byteAt a = s.byteAt a := rfl

end setSp

section setDT

variable (s : State) (b : Byte)

@[simp] theorem setDT_mem : (s.setDT b).mem = s.mem := rfl
@[simp] theorem setDT_v : (s.setDT b).v = s.v := rfl
@[simp] theorem setDT_i : (s.setDT b).i = s.i := rfl
@[simp] theorem setDT_pc : (s.setDT b).pc = s.pc := rfl
@[simp] theorem setDT_stack : (s.setDT b).stack = s.stack := rfl
@[simp] theorem setDT_sp : (s.setDT b).sp = s.sp := rfl
@[simp] theorem setDT_dt : (s.setDT b).dt = b := rfl
@[simp] theorem setDT_st : (s.setDT b).st = s.st := rfl
@[simp] theorem setDT_key : (s.setDT b).key = s.key := rfl
@[simp] theorem setDT_fb : (s.setDT b).fb = s.fb := rfl
@[simp] theorem setDT_halted : (s.setDT b).halted = s.halted := rfl
@[simp] theorem setDT_draws : (s.setDT b).draws = s.draws := rfl
@[simp] theorem setDT_getV (q : RegIdx) : (s.setDT b).getV q = s.getV q := rfl
@[simp] theorem setDT_byteAt (a : Nat) : (s.setDT b).byteAt a = s.byteAt a := rfl

end setDT

section setST

variable (s : State) (b : Byte)

@[simp] theorem setST_mem : (s.setST b).mem = s.mem := rfl
@[simp] theorem setST_v : (s.setST b).v = s.v := rfl
@[simp] theorem setST_i : (s.setST b).i = s.i := rfl
@[simp] theorem setST_pc : (s.setST b).pc = s.pc := rfl
@[simp] theorem setST_stack : (s.setST b).stack = s.stack := rfl
@[simp] theorem setST_sp : (s.setST b).sp = s.sp := rfl
@[simp] theorem setST_dt : (s.setST b).dt = s.dt := rfl
@[simp] theorem setST_st : (s.setST b).st = b := rfl
@[simp] theorem setST_key : (s.setST b).key = s.key := rfl
@[simp] theorem setST_fb : (s.setST b).fb = s.fb := rfl
@[simp] theorem setST_halted : (s.setST b).halted = s.halted := rfl
@[simp] theorem setST_draws : (s.setST b).draws = s.draws := rfl
@[simp] theorem setST_getV (q : RegIdx) : (s.setST b).getV q = s.getV q := rfl
@[simp] theorem setST_byteAt (a : Nat) : (s.setST b).byteAt a = s.byteAt a := rfl

end setST

section setKeys

variable (s : State) (k : Vector Bool 16)

@[simp] theorem setKeys_mem : (s.setKeys k).mem = s.mem := rfl
@[simp] theorem setKeys_v : (s.setKeys k).v = s.v := rfl
@[simp] theorem setKeys_i : (s.setKeys k).i = s.i := rfl
@[simp] theorem setKeys_pc : (s.setKeys k).pc = s.pc := rfl
@[simp] theorem setKeys_stack : (s.setKeys k).stack = s.stack := rfl
@[simp] theorem setKeys_sp : (s.setKeys k).sp = s.sp := rfl
@[simp] theorem setKeys_dt : (s.setKeys k).dt = s.dt := rfl
@[simp] theorem setKeys_st : (s.setKeys k).st = s.st := rfl
@[simp] theorem setKeys_key : (s.setKeys k).key = k := rfl
@[simp] theorem setKeys_fb : (s.setKeys k).fb = s.fb := rfl
@[simp] theorem setKeys_halted : (s.setKeys k).halted = s.halted := rfl
@[simp] theorem setKeys_draws : (s.setKeys k).draws = s.draws := rfl
@[simp] theorem setKeys_getV (q : RegIdx) : (s.setKeys k).getV q = s.getV q := rfl
@[simp] theorem setKeys_byteAt (a : Nat) : (s.setKeys k).byteAt a = s.byteAt a := rfl

end setKeys

section setFb

variable (s : State) (f : Framebuffer)

@[simp] theorem setFb_mem : (s.setFb f).mem = s.mem := rfl
@[simp] theorem setFb_v : (s.setFb f).v = s.v := rfl
@[simp] theorem setFb_i : (s.setFb f).i = s.i := rfl
@[simp] theorem setFb_pc : (s.setFb f).pc = s.pc := rfl
@[simp] theorem setFb_stack : (s.setFb f).stack = s.stack := rfl
@[simp] theorem setFb_sp : (s.setFb f).sp = s.sp := rfl
@[simp] theorem setFb_dt : (s.setFb f).dt = s.dt := rfl
@[simp] theorem setFb_st : (s.setFb f).st = s.st := rfl
@[simp] theorem setFb_key : (s.setFb f).key = s.key := rfl
@[simp] theorem setFb_fb : (s.setFb f).fb = f := rfl
@[simp] theorem setFb_halted : (s.setFb f).halted = s.halted := rfl
@[simp] theorem setFb_draws : (s.setFb f).draws = s.draws := rfl
@[simp] theorem setFb_getV (q : RegIdx) : (s.setFb f).getV q = s.getV q := rfl
@[simp] theorem setFb_byteAt (a : Nat) : (s.setFb f).byteAt a = s.byteAt a := rfl

end setFb

section setMem

variable (s : State) (m : Memory)

@[simp] theorem setMem_mem : (s.setMem m).mem = m := rfl
@[simp] theorem setMem_v : (s.setMem m).v = s.v := rfl
@[simp] theorem setMem_i : (s.setMem m).i = s.i := rfl
@[simp] theorem setMem_pc : (s.setMem m).pc = s.pc := rfl
@[simp] theorem setMem_stack : (s.setMem m).stack = s.stack := rfl
@[simp] theorem setMem_sp : (s.setMem m).sp = s.sp := rfl
@[simp] theorem setMem_dt : (s.setMem m).dt = s.dt := rfl
@[simp] theorem setMem_st : (s.setMem m).st = s.st := rfl
@[simp] theorem setMem_key : (s.setMem m).key = s.key := rfl
@[simp] theorem setMem_fb : (s.setMem m).fb = s.fb := rfl
@[simp] theorem setMem_halted : (s.setMem m).halted = s.halted := rfl
@[simp] theorem setMem_draws : (s.setMem m).draws = s.draws := rfl
@[simp] theorem setMem_getV (q : RegIdx) : (s.setMem m).getV q = s.getV q := rfl

end setMem

section halt

variable (s : State) (r : FaultRecord)

@[simp] theorem halt_mem : (s.halt r).mem = s.mem := rfl
@[simp] theorem halt_v : (s.halt r).v = s.v := rfl
@[simp] theorem halt_i : (s.halt r).i = s.i := rfl
@[simp] theorem halt_pc : (s.halt r).pc = s.pc := rfl
@[simp] theorem halt_stack : (s.halt r).stack = s.stack := rfl
@[simp] theorem halt_sp : (s.halt r).sp = s.sp := rfl
@[simp] theorem halt_dt : (s.halt r).dt = s.dt := rfl
@[simp] theorem halt_st : (s.halt r).st = s.st := rfl
@[simp] theorem halt_key : (s.halt r).key = s.key := rfl
@[simp] theorem halt_fb : (s.halt r).fb = s.fb := rfl
@[simp] theorem halt_halted : (s.halt r).halted = some r := rfl
@[simp] theorem halt_draws : (s.halt r).draws = s.draws := rfl
@[simp] theorem halt_getV (q : RegIdx) : (s.halt r).getV q = s.getV q := rfl
@[simp] theorem halt_byteAt (a : Nat) : (s.halt r).byteAt a = s.byteAt a := rfl

end halt

section countDraw

variable (s : State) 

@[simp] theorem countDraw_mem : (s.countDraw).mem = s.mem := rfl
@[simp] theorem countDraw_v : (s.countDraw).v = s.v := rfl
@[simp] theorem countDraw_i : (s.countDraw).i = s.i := rfl
@[simp] theorem countDraw_pc : (s.countDraw).pc = s.pc := rfl
@[simp] theorem countDraw_stack : (s.countDraw).stack = s.stack := rfl
@[simp] theorem countDraw_sp : (s.countDraw).sp = s.sp := rfl
@[simp] theorem countDraw_dt : (s.countDraw).dt = s.dt := rfl
@[simp] theorem countDraw_st : (s.countDraw).st = s.st := rfl
@[simp] theorem countDraw_key : (s.countDraw).key = s.key := rfl
@[simp] theorem countDraw_fb : (s.countDraw).fb = s.fb := rfl
@[simp] theorem countDraw_halted : (s.countDraw).halted = s.halted := rfl
@[simp] theorem countDraw_draws : (s.countDraw).draws = s.draws + 1 := rfl
@[simp] theorem countDraw_getV (q : RegIdx) : (s.countDraw).getV q = s.getV q := rfl
@[simp] theorem countDraw_byteAt (a : Nat) : (s.countDraw).byteAt a = s.byteAt a := rfl

@[simp] theorem countDraw_toMachineState : (s.countDraw).toMachineState = s.toMachineState := rfl

end countDraw

/-- A register reads as last written, every other one as before (R21). -/
@[simp] theorem setV_getV (s : State) (r q : RegIdx) (b : Byte) :
    (s.setV r b).getV q = if q = r then b else s.getV q := by
  simp only [State.getV, State.setV, Fin.getElem_fin, Vector.getElem_set, Fin.ext_iff]
  by_cases h : r.val = q.val
  · simp [h]
  · simp [h, Ne.symm h]

@[simp] theorem setRegs_getV (s : State) (v : Vector Byte 16) (q : RegIdx) :
    (s.setRegs v).getV q = v[q] := rfl

@[simp] theorem setMem_byteAt (s : State) (m : Memory) (a : Nat) :
    (s.setMem m).byteAt a = m.read a := rfl

end Sys2Proof.Machine
end

