-- ==== Sys2Proof/Laws/Ops.lean ====
section
/-! SUPPORT. For each shared operation, once, everything it can do. -/

namespace Sys2Proof.Machine

/-! ## Memory accesses of an instruction -/

@[simp] theorem spanOk_iff (a n : Nat) : spanOk a n = true ↔ n = 0 ∨ a + n ≤ memSize := by
  simp [spanOk]

/-- A read of many bytes answers only when every address exists, and then with those bytes (R55, R116). -/
theorem load?_eq_some {s : State} {a n : Nat} {bs : List Byte} :
    s.load? a n = some bs ↔ (n = 0 ∨ a + n ≤ memSize) ∧ bs = s.mem.readSpan a n := by
  rw [State.load?, ← spanOk_iff]
  by_cases h : spanOk a n = true
  · simp only [h, ↓reduceIte, Option.some.injEq, true_and]; exact eq_comm
  · simp only [h]; simp

/-- A read of many bytes does not answer exactly when its last address does not exist. -/
theorem load?_eq_none {s : State} {a n : Nat} :
    s.load? a n = none ↔ 0 < n ∧ memSize < a + n := by
  rw [State.load?]
  split
  · next h => simp only [spanOk_iff] at h; simp; omega
  · next h => simp only [spanOk_iff] at h; simp; omega

/-- A write of many bytes answers only when every address exists, and changes memory only (R56, R116). -/
theorem store?_eq_some {s t : State} {a : Nat} {bs : List Byte} :
    s.store? a bs = some t ↔
      (bs = [] ∨ a + bs.length ≤ memSize) ∧ t = s.setMem (s.mem.writeSpan a bs) := by
  rw [State.store?]
  have e : bs.length = 0 ↔ bs = [] := List.length_eq_zero_iff
  split
  · next h => simp only [spanOk_iff, e] at h; simp [h, eq_comm]
  · next h => simp only [spanOk_iff, e] at h; simp only [h, false_and, reduceCtorEq]

/-- A write of many bytes does not answer exactly when its last address does not exist. -/
theorem store?_eq_none {s : State} {a : Nat} {bs : List Byte} :
    s.store? a bs = none ↔ bs ≠ [] ∧ memSize < a + bs.length := by
  rw [State.store?]
  have e : bs.length = 0 ↔ bs = [] := List.length_eq_zero_iff
  split
  · next h =>
    simp only [spanOk_iff, e] at h
    simp only [reduceCtorEq, false_iff]
    rintro ⟨h1, h2⟩
    rcases h with h | h
    · exact h1 h
    · omega
  · next h =>
    simp only [spanOk_iff, e, not_or] at h
    exact ⟨fun _ => ⟨h.1, by omega⟩, fun _ => rfl⟩

/-! ## Runs of registers -/

@[simp] theorem length_firstRegs (s : State) (x : RegIdx) : (s.firstRegs x).length = x.val + 1 := by
  simp [State.firstRegs]

/-- Byte `k` of `V0 .. Vx` is `V[k]` (R184). -/
theorem getElem_firstRegs (s : State) (x : RegIdx) (k : Nat) (h : k < (s.firstRegs x).length) :
    (s.firstRegs x)[k] = s.getV ⟨k, by simp at h; omega⟩ := by
  simp [State.firstRegs, State.getV]

/-- Register `q` after `V[k], V[k+1], ...` took the bytes (R185). -/
theorem getElem_regsFrom (k : Nat) (bs : List Byte) (v : Vector Byte 16) (q : Nat) (hq : q < 16) :
    (regsFrom k bs v)[q] = if k ≤ q then bs.getD (q - k) v[q] else v[q] := by
  induction bs generalizing k v with
  | nil => simp [regsFrom]
  | cons b bs ih =>
    simp only [regsFrom, ih, Vector.getElem_setIfInBounds]
    by_cases h1 : k + 1 ≤ q
    · have h2 : q - k = (q - (k + 1)) + 1 := by omega
      simp [h1, show k ≤ q by omega, show k ≠ q by omega, h2]
    · by_cases h2 : k = q
      · subst h2; simp
      · simp [h1, h2, show ¬ k ≤ q by omega]

/-- The registers loaded take the bytes in order, the others are kept (R185). -/
theorem setFirstRegs_getV (s : State) (bs : List Byte) (q : RegIdx) :
    (s.setFirstRegs bs).getV q = bs.getD q.val (s.getV q) := by
  simp [State.setFirstRegs, State.getV, getElem_regsFrom]

/-! ## Program counter and fetch -/

@[simp] theorem advance_pc (s : State) : s.advance.pc = s.pc + 2 := rfl

@[simp] theorem advance_instrAddr (s : State) : s.advance.instrAddr = s.pc := by
  simp [State.instrAddr]

/-- A skip changes `pc` only (R139). -/
theorem skipIf_eq (s : State) (c : Bool) :
    s.skipIf c = s.setPc (if c then s.pc + 2 else s.pc) := by
  cases c <;> rfl

/-- A fetch answers only where both bytes exist, with the word they make, high byte first (R111). -/
theorem fetch?_eq_some {s : State} {w : Word} :
    s.fetch? = some w ↔
      s.pc.toNat ≤ 0x0FFE ∧ w = wordOf (s.byteAt s.pc.toNat) (s.byteAt (s.pc.toNat + 1)) := by
  rw [State.fetch?]
  split <;> simp_all [eq_comm]

theorem fetch?_eq_none {s : State} : s.fetch? = none ↔ 0x0FFE < s.pc.toNat := by
  rw [State.fetch?]
  split <;> simp_all

/-! ## Taking a fault -/

/-- Taking a fault is a next state in which only the latch differs (R251). -/
@[simp] theorem raise_eq_next {r : FaultRecord} {s t : State} :
    raise r s = .next t ↔ t = s.halt r := by
  simp [raise, eq_comm]

/-! ## Return stack -/

/-- A push has room exactly while `sp < 16`; it writes one entry and `sp` (R133). -/
theorem push?_eq_some {s t : State} {w : Word} :
    s.push? w = some t ↔ ∃ h : s.sp.toNat < 16,
      t = (s.setStack (s.stack.set s.sp.toNat w h)).setSp (s.sp + 1) := by
  simp only [State.push?]
  split
  · next h => simp only [Option.some.injEq]; exact ⟨fun e => ⟨h, e.symm⟩, fun ⟨_, e⟩ => e.symm⟩
  · next h => simp only [reduceCtorEq, false_iff]; exact fun ⟨h', _⟩ => h h'

theorem push?_eq_none {s : State} {w : Word} : s.push? w = none ↔ 16 ≤ s.sp.toNat := by
  simp only [State.push?]
  split <;> simp_all

/-- A pop answers for `sp` from 1 to 16, with the entry below `sp`; it writes `sp` only (R131). -/
theorem pop?_eq_some {s t : State} {w : Word} :
    s.pop? = some (w, t) ↔ ∃ h : 0 < s.sp.toNat ∧ s.sp.toNat ≤ 16,
      w = s.stack[s.sp.toNat - 1]'(by omega) ∧ t = s.setSp (s.sp - 1) := by
  have hz : s.sp = 0 ↔ s.sp.toNat = 0 := by simp [BitVec.toNat_eq]
  rw [State.pop?]
  split
  · next h =>
    have := hz.1 h
    simp only [reduceCtorEq, false_iff]
    exact fun ⟨h', _⟩ => by omega
  · next h =>
    have h0 : 0 < s.sp.toNat := by have := mt hz.2 h; omega
    simp only [Option.map_eq_some_iff, Vector.getElem?_eq_some_iff, Prod.mk.injEq]
    constructor
    · rintro ⟨a, ⟨hb, rfl⟩, rfl, rfl⟩
      exact ⟨⟨h0, by omega⟩, rfl, rfl⟩
    · rintro ⟨⟨_, hb⟩, rfl, rfl⟩
      exact ⟨_, ⟨by omega, rfl⟩, rfl, rfl⟩

theorem pop?_eq_none {s : State} : s.pop? = none ↔ s.sp.toNat = 0 ∨ 16 < s.sp.toNat := by
  have hz : s.sp = 0 ↔ s.sp.toNat = 0 := by simp [BitVec.toNat_eq]
  rw [State.pop?]
  split
  · next h => simp [hz.1 h]
  · next h =>
    have h0 : ¬ s.sp.toNat = 0 := mt hz.2 h
    simp only [Option.map_eq_none_iff, Vector.getElem?_eq_none_iff]
    omega

/-! ## Keypad -/

/-- A key answers exactly for the indices 0 to 15 (R220, R258). -/
theorem keyDown?_eq_some {s : State} {n : Nat} {b : Bool} :
    s.keyDown? n = some b ↔ ∃ h : n < 16, s.key[n] = b := by
  simp [State.keyDown?, Vector.getElem?_eq_some_iff]

theorem keyDown?_eq_none {s : State} {n : Nat} : s.keyDown? n = none ↔ 16 ≤ n := by
  simp [State.keyDown?]

/-- The lowest pressed key: it is down and every lower one is up (R223). -/
theorem lowestKey?_eq_some {s : State} {k : Nat} :
    s.lowestKey? = some k ↔ ∃ h : k < 16, s.key[k] = true ∧ ∀ j (hj : j < k), s.key[j] = false := by
  simp [State.lowestKey?, List.findIdx?_eq_some_iff_getElem]

/-- No key is pressed (R223). -/
theorem lowestKey?_eq_none {s : State} :
    s.lowestKey? = none ↔ ∀ k (h : k < 16), s.key[k] = false := by
  simp only [State.lowestKey?, List.findIdx?_eq_none_iff]
  constructor
  · intro h k hk
    exact h _ (by simp)
  · intro h b hb
    obtain ⟨k, hk, rfl⟩ := List.mem_iff_getElem.1 hb
    simpa using h k (by simpa using hk)

/-! ## Framebuffer -/

/-- A toggled pixel flips, every other one is kept (R203). -/
@[simp] theorem pixel_toggle (f : Framebuffer) (a c : Nat) (ha : a < 2048) :
    (f.toggle a).pixel c = (f.pixel c ^^ decide (a = c)) := by
  have hr : a / 64 < 32 := by omega
  have hc : a % 64 < 64 := Nat.mod_lt _ (by decide)
  simp only [Framebuffer.toggle, Framebuffer.pixel, Framebuffer.row, fbWidth,
    Vector.getElem?_setIfInBounds]
  by_cases h : a / 64 = c / 64
  · have e : (a % 64 = c % 64) ↔ a = c := by omega
    simp [h, h ▸ hr, BitVec.getLsbD_xor, BitVec.getLsbD_twoPow, hc, e]
  · have e : a ≠ c := fun e => h (by rw [e])
    simp [h, e]

/-- Every pixel a sprite bit falls on is one of the 2048 (R202). -/
theorem pixelIndex_lt (px py : Nat) : pixelIndex (px % fbWidth) (py % fbHeight) < 2048 := by
  have h1 := Nat.mod_lt px (show 0 < 64 by decide)
  have h2 := Nat.mod_lt py (show 0 < 32 by decide)
  simp only [pixelIndex, fbWidth, fbHeight]
  omega

end Sys2Proof.Machine
end

