-- ==== Sys2Proof/Laws/Events.lean ====
section
/-! SUPPORT. What CREATE, LOAD, TICK, SET_KEY and READ_FB do, one lemma for each field they may write, and what a
session's event needs to move. -/

namespace Sys2Proof.Machine

/-! ## CREATE and LOAD -/

/-- CREATE answers exactly on the parameters it may be given (spec/70_reset_and_hazards.md R290, R292). -/
theorem create_eq_some {c : Config} {s : State} :
    create c = some s ↔ (c.font.length = 80 ∧ c.pcReset.toNat ≤ 0x0FFE) ∧ createdState c = s := by
  simp [create, Config.wellFormed, Config.fontOk, Config.pcResetOk, fontLen]

theorem create_eq_none {c : Config} :
    create c = none ↔ c.font.length ≠ 80 ∨ 0x0FFE < c.pcReset.toNat := by
  simp [create, Config.wellFormed, Config.fontOk, Config.pcResetOk, fontLen]
  omega

/-- LOAD succeeds exactly on a program that fits, and then stores it at 0x200 (spec/20_memory.md R63, R64). -/
theorem load_eq_loaded {bytes : List Byte} {s t : State} :
    load bytes s = .loaded t ↔
      0x200 + bytes.length ≤ 4096 ∧ s.setMem (s.mem.writeSpan progBase bytes) = t := by
  simp only [load, programFits, decide_eq_true_eq]
  split <;> simp_all [progBase, memSize]

/-! ## TICK and SET_KEY -/

theorem tickDown_toNat (b : Byte) : (tickDown b).toNat = b.toNat - 1 := by
  unfold tickDown
  split
  · next h => simp [h]
  · next h =>
    have : b.toNat ≠ 0 := fun e => h (BitVec.eq_of_toNat_eq (by simpa using e))
    rw [BitVec.toNat_sub]
    simp
    omega

section tick

variable (s : State)

@[simp] theorem tick_mem : (tick s).mem = s.mem := rfl
@[simp] theorem tick_v : (tick s).v = s.v := rfl
@[simp] theorem tick_i : (tick s).i = s.i := rfl
@[simp] theorem tick_pc : (tick s).pc = s.pc := rfl
@[simp] theorem tick_stack : (tick s).stack = s.stack := rfl
@[simp] theorem tick_sp : (tick s).sp = s.sp := rfl
@[simp] theorem tick_dt : (tick s).dt = tickDown s.dt := rfl
@[simp] theorem tick_st : (tick s).st = tickDown s.st := rfl
@[simp] theorem tick_key : (tick s).key = s.key := rfl
@[simp] theorem tick_fb : (tick s).fb = s.fb := rfl
@[simp] theorem tick_halted : (tick s).halted = s.halted := rfl
@[simp] theorem tick_draws : (tick s).draws = s.draws := rfl

end tick

section setKey

variable (k : Nat) (b : Bool) (s : State)

@[simp] theorem setKey_mem : (setKey k b s).mem = s.mem := rfl
@[simp] theorem setKey_v : (setKey k b s).v = s.v := rfl
@[simp] theorem setKey_i : (setKey k b s).i = s.i := rfl
@[simp] theorem setKey_pc : (setKey k b s).pc = s.pc := rfl
@[simp] theorem setKey_stack : (setKey k b s).stack = s.stack := rfl
@[simp] theorem setKey_sp : (setKey k b s).sp = s.sp := rfl
@[simp] theorem setKey_dt : (setKey k b s).dt = s.dt := rfl
@[simp] theorem setKey_st : (setKey k b s).st = s.st := rfl
@[simp] theorem setKey_key : (setKey k b s).key = s.key.setIfInBounds k b := rfl
@[simp] theorem setKey_fb : (setKey k b s).fb = s.fb := rfl
@[simp] theorem setKey_halted : (setKey k b s).halted = s.halted := rfl
@[simp] theorem setKey_draws : (setKey k b s).draws = s.draws := rfl

end setKey

/-! ## A session's event -/

/-- What a session moves to, said once for every event (spec/70_reset_and_hazards.md R293). -/
theorem act_moved {p q : Session} {e : Event} {r : Response} (h : p.act e = .moved q r) :
    (∃ bytes t, e = .load bytes ∧ p.phase = .created ∧ load bytes p.machine = .loaded t ∧
      q = { machine := t, phase := .loaded } ∧ r = .done) ∨
    (∃ bytes, e = .load bytes ∧ p.phase = .created ∧ load bytes p.machine = .outOfCapacity ∧
      q = p ∧ r = .outOfCapacity) ∨
    (∃ b t, e = .step b ∧ p.phase = .loaded ∧ stepWith b p.machine = .next t ∧
      q = { p with machine := t } ∧ r = .done) ∨
    (e = .tick ∧ p.phase = .loaded ∧ q = { p with machine := tick p.machine } ∧ r = .done) ∨
    (∃ k b, e = .setKey k b ∧ k < 16 ∧ q = { p with machine := setKey k b p.machine } ∧ r = .done) ∨
    (e = .readFb ∧ p.phase = .loaded ∧ q = p ∧ r = .pixels p.machine.fb) := by
  cases e with
  | load bytes =>
    cases hp : p.phase <;> simp only [Session.act, Session.actLoad, hp] at h
    · cases hl : load bytes p.machine <;> simp_all
    · cases h
  | step b =>
    cases hp : p.phase <;> simp only [Session.act, Session.actStep, hp] at h
    · cases h
    · split at h <;> simp_all
  | tick => cases hp : p.phase <;> simp_all [Session.act]
  | setKey k b =>
    simp only [Session.act, keyIndexOk, decide_eq_true_eq] at h
    split at h
    · next hk => cases h; exact .inr (.inr (.inr (.inr (.inl ⟨k, b, rfl, hk, rfl, rfl⟩))))
    · cases h
  | readFb =>
    cases hp : p.phase <;> simp only [Session.act, hp] at h <;> cases h
    exact .inr (.inr (.inr (.inr (.inr ⟨rfl, rfl, rfl, rfl⟩))))

end Sys2Proof.Machine
end

