-- ==== Sys2Proof/Laws/Flags.lean ====
section
/-! SUPPORT. Results and flags as natural numbers, and the two write orders. -/

namespace Sys2Proof.Machine

@[simp] theorem toNat_addByte (a b : Byte) : (addByte a b).toNat = (a.toNat + b.toNat) % 256 := by
  simp [addByte]

@[simp] theorem toNat_subByte (a b : Byte) : (subByte a b).toNat = (a.toNat + 256 - b.toNat) % 256 := by
  simp [subByte]

@[simp] theorem toNat_shrByte (a : Byte) : (shrByte a).toNat = a.toNat / 2 := by
  simp [shrByte]; omega

@[simp] theorem toNat_shlByte (a : Byte) : (shlByte a).toNat = a.toNat * 2 % 256 := by
  simp [shlByte]

@[simp] theorem toNat_flagByte (c : Bool) : (flagByte c).toNat = if c then 1 else 0 := by
  cases c <;> rfl

@[simp] theorem toNat_zextAddr (n : Addr12) : (zextAddr n).toNat = n.toNat := by
  simp [zextAddr]; omega

@[simp] theorem toNat_zextByte (b : Byte) : (zextByte b).toNat = b.toNat := by
  simp [zextByte]; omega

@[simp] theorem toNat_glyphAddr (b : Byte) : (glyphAddr b).toNat = 0x50 + 5 * b.toNat := by
  have := b.isLt
  simp [glyphAddr, fontBase, glyphStride]; omega

/-- The target of `JP V0, nnn` never wraps (R138). -/
theorem toNat_offsetTarget (s : State) (n : Addr12) :
    (s.offsetTarget n).toNat = (s.getV 0).toNat + n.toNat := by
  have h1 := (s.getV 0).isLt
  have h2 := n.isLt
  simp [State.offsetTarget, BitVec.toNat_add]; omega

/-- Registers after `V[x]` then `VF` (R115): the flag survives in `VF`. -/
theorem setResultThenFlag_getV (s : State) (x q : RegIdx) (res flag : Byte) :
    (s.setResultThenFlag x res flag).getV q =
      if q = regF then flag else if q = x then res else s.getV q := by
  simp [State.setResultThenFlag]

/-- Registers after `VF` then `V[x]` (R115): the result survives in `VF` when `x` is `F`. -/
theorem setFlagThenResult_getV (s : State) (x q : RegIdx) (res flag : Byte) :
    (s.setFlagThenResult x res flag).getV q =
      if q = x then res else if q = regF then flag else s.getV q := by
  simp [State.setFlagThenResult]

end Sys2Proof.Machine
end

