-- ==== Sys2Proof/Laws/PerInstr.lean ====
section
/-! SUPPORT. What holds of every instruction, one lemma for each constructor: its word is selected by a
row of the opcode map. -/

namespace Sys2Proof.Laws

/-- The opcode is all that the mask of format `A` leaves (spec/30_encoding.md R83). -/
theorem mask_encA (op : Nibble) (nnn : Addr12) : encA op nnn &&& 0xF000 = nibbleAt 12 op := by
  ext k hk
  interval_cases k <;> simp [encA, nibbleAt]

/-- The opcode is all that the mask of format `I` leaves (R83). -/
theorem mask_encI (op : Nibble) (x : RegIdx) (kk : Byte) :
    encI op x kk &&& 0xF000 = nibbleAt 12 op := by
  ext k hk
  interval_cases k <;> simp [encI, nibbleAt]

/-- The mask of format `X` leaves the opcode and the low byte (R83). -/
theorem mask_encX (op : Nibble) (x : RegIdx) (kk : Byte) :
    encI op x kk &&& 0xF0FF = nibbleAt 12 op ||| kk.setWidth 16 := by
  ext k hk
  interval_cases k <;> simp [encI, nibbleAt]

/-- The mask of format `R` leaves the opcode and the last nibble (R83). -/
theorem mask_encR (op : Nibble) (x y : RegIdx) (n : Nibble) :
    encR op x y n &&& 0xF00F = nibbleAt 12 op ||| nibbleAt 0 n := by
  ext k hk
  interval_cases k <;> simp [encR, nibbleAt]

/-- The opcode is all that the mask of format `D` leaves (R83). -/
theorem mask_encD (op : Nibble) (x y : RegIdx) (n : Nibble) :
    encR op x y n &&& 0xF000 = nibbleAt 12 op := by
  ext k hk
  interval_cases k <;> simp [encR, nibbleAt]

/-- The word of an instruction is selected by a row of R86. -/
def OpcodeRow.Statement (i : Instr) : Prop := ∃ r ∈ opRows, r.selects (encode i)

/-- Row `k` of the map selects the instruction's word. -/
theorem OpcodeRow.byRow (k : Nat) (h : k < opRows.length) {i : Instr}
    (e : encode i &&& opRows[k].mask = opRows[k].code) : OpcodeRow.Statement i :=
  ⟨opRows[k], List.getElem_mem h, by simpa [OpRow.selects] using e⟩

theorem OpcodeRow.nop : OpcodeRow.Statement (.nop) :=
  OpcodeRow.byRow 0 (by decide) (by decide)

theorem OpcodeRow.cls : OpcodeRow.Statement (.cls) :=
  OpcodeRow.byRow 1 (by decide) (by decide)

theorem OpcodeRow.ret : OpcodeRow.Statement (.ret) :=
  OpcodeRow.byRow 2 (by decide) (by decide)

theorem OpcodeRow.jp (nnn : Addr12) : OpcodeRow.Statement (.jp nnn) :=
  OpcodeRow.byRow 3 (by decide) ((mask_encA _ nnn).trans (by decide))

theorem OpcodeRow.call (nnn : Addr12) : OpcodeRow.Statement (.call nnn) :=
  OpcodeRow.byRow 4 (by decide) ((mask_encA _ nnn).trans (by decide))

theorem OpcodeRow.seImm (x : RegIdx) (kk : Byte) : OpcodeRow.Statement (.seImm x kk) :=
  OpcodeRow.byRow 5 (by decide) ((mask_encI _ x kk).trans (by decide))

theorem OpcodeRow.sneImm (x : RegIdx) (kk : Byte) : OpcodeRow.Statement (.sneImm x kk) :=
  OpcodeRow.byRow 6 (by decide) ((mask_encI _ x kk).trans (by decide))

theorem OpcodeRow.seReg (x y : RegIdx) : OpcodeRow.Statement (.seReg x y) :=
  OpcodeRow.byRow 7 (by decide) ((mask_encR _ x y _).trans (by decide))

theorem OpcodeRow.ldImm (x : RegIdx) (kk : Byte) : OpcodeRow.Statement (.ldImm x kk) :=
  OpcodeRow.byRow 8 (by decide) ((mask_encI _ x kk).trans (by decide))

theorem OpcodeRow.addImm (x : RegIdx) (kk : Byte) : OpcodeRow.Statement (.addImm x kk) :=
  OpcodeRow.byRow 9 (by decide) ((mask_encI _ x kk).trans (by decide))

theorem OpcodeRow.ldReg (x y : RegIdx) : OpcodeRow.Statement (.ldReg x y) :=
  OpcodeRow.byRow 10 (by decide) ((mask_encR _ x y _).trans (by decide))

theorem OpcodeRow.orReg (x y : RegIdx) : OpcodeRow.Statement (.orReg x y) :=
  OpcodeRow.byRow 11 (by decide) ((mask_encR _ x y _).trans (by decide))

theorem OpcodeRow.andReg (x y : RegIdx) : OpcodeRow.Statement (.andReg x y) :=
  OpcodeRow.byRow 12 (by decide) ((mask_encR _ x y _).trans (by decide))

theorem OpcodeRow.xorReg (x y : RegIdx) : OpcodeRow.Statement (.xorReg x y) :=
  OpcodeRow.byRow 13 (by decide) ((mask_encR _ x y _).trans (by decide))

theorem OpcodeRow.addReg (x y : RegIdx) : OpcodeRow.Statement (.addReg x y) :=
  OpcodeRow.byRow 14 (by decide) ((mask_encR _ x y _).trans (by decide))

theorem OpcodeRow.subReg (x y : RegIdx) : OpcodeRow.Statement (.subReg x y) :=
  OpcodeRow.byRow 15 (by decide) ((mask_encR _ x y _).trans (by decide))

theorem OpcodeRow.shr (x y : RegIdx) : OpcodeRow.Statement (.shr x y) :=
  OpcodeRow.byRow 16 (by decide) ((mask_encR _ x y _).trans (by decide))

theorem OpcodeRow.subnReg (x y : RegIdx) : OpcodeRow.Statement (.subnReg x y) :=
  OpcodeRow.byRow 17 (by decide) ((mask_encR _ x y _).trans (by decide))

theorem OpcodeRow.shl (x y : RegIdx) : OpcodeRow.Statement (.shl x y) :=
  OpcodeRow.byRow 18 (by decide) ((mask_encR _ x y _).trans (by decide))

theorem OpcodeRow.sneReg (x y : RegIdx) : OpcodeRow.Statement (.sneReg x y) :=
  OpcodeRow.byRow 19 (by decide) ((mask_encR _ x y _).trans (by decide))

theorem OpcodeRow.ldI (nnn : Addr12) : OpcodeRow.Statement (.ldI nnn) :=
  OpcodeRow.byRow 20 (by decide) ((mask_encA _ nnn).trans (by decide))

theorem OpcodeRow.jpV0 (nnn : Addr12) : OpcodeRow.Statement (.jpV0 nnn) :=
  OpcodeRow.byRow 21 (by decide) ((mask_encA _ nnn).trans (by decide))

theorem OpcodeRow.rnd (x : RegIdx) (kk : Byte) : OpcodeRow.Statement (.rnd x kk) :=
  OpcodeRow.byRow 22 (by decide) ((mask_encI _ x kk).trans (by decide))

theorem OpcodeRow.drw (x y : RegIdx) (n : Nibble) : OpcodeRow.Statement (.drw x y n) :=
  OpcodeRow.byRow 23 (by decide) ((mask_encD _ x y n).trans (by decide))

theorem OpcodeRow.skp (x : RegIdx) : OpcodeRow.Statement (.skp x) :=
  OpcodeRow.byRow 24 (by decide) ((mask_encX _ x _).trans (by decide))

theorem OpcodeRow.sknp (x : RegIdx) : OpcodeRow.Statement (.sknp x) :=
  OpcodeRow.byRow 25 (by decide) ((mask_encX _ x _).trans (by decide))

theorem OpcodeRow.ldVxDT (x : RegIdx) : OpcodeRow.Statement (.ldVxDT x) :=
  OpcodeRow.byRow 26 (by decide) ((mask_encX _ x _).trans (by decide))

theorem OpcodeRow.ldVxK (x : RegIdx) : OpcodeRow.Statement (.ldVxK x) :=
  OpcodeRow.byRow 27 (by decide) ((mask_encX _ x _).trans (by decide))

theorem OpcodeRow.ldDTVx (x : RegIdx) : OpcodeRow.Statement (.ldDTVx x) :=
  OpcodeRow.byRow 28 (by decide) ((mask_encX _ x _).trans (by decide))

theorem OpcodeRow.ldSTVx (x : RegIdx) : OpcodeRow.Statement (.ldSTVx x) :=
  OpcodeRow.byRow 29 (by decide) ((mask_encX _ x _).trans (by decide))

theorem OpcodeRow.addIVx (x : RegIdx) : OpcodeRow.Statement (.addIVx x) :=
  OpcodeRow.byRow 30 (by decide) ((mask_encX _ x _).trans (by decide))

theorem OpcodeRow.ldFVx (x : RegIdx) : OpcodeRow.Statement (.ldFVx x) :=
  OpcodeRow.byRow 31 (by decide) ((mask_encX _ x _).trans (by decide))

theorem OpcodeRow.ldBVx (x : RegIdx) : OpcodeRow.Statement (.ldBVx x) :=
  OpcodeRow.byRow 32 (by decide) ((mask_encX _ x _).trans (by decide))

theorem OpcodeRow.storeRegs (x : RegIdx) : OpcodeRow.Statement (.storeRegs x) :=
  OpcodeRow.byRow 33 (by decide) ((mask_encX _ x _).trans (by decide))

theorem OpcodeRow.loadRegs (x : RegIdx) : OpcodeRow.Statement (.loadRegs x) :=
  OpcodeRow.byRow 34 (by decide) ((mask_encX _ x _).trans (by decide))

end Sys2Proof.Laws
end

