-- ==== Sys2Proof/Laws/Step.lean ====
section
/-! SUPPORT. What a step can do, said once: a fetch fault, an illegal word, or an instruction. -/

namespace Sys2Proof.Machine

/-- A halted machine takes no step (R117). -/
theorem cycle_halted {run : Instr → State → Result} {s : State} {r : FaultRecord}
    (h : s.halted = some r) : cycle run s = .fault (.halted r) := by
  simp [cycle, h]

/-- A step of a machine that is not halted, by what lies at `pc` (R110): nothing to fetch, a word that is
no instruction, or an instruction. -/
theorem cycle_running (run : Instr → State → Result) {s : State} (h : s.halted = none) :
    (0x0FFE < s.pc.toNat ∧ cycle run s = .next (s.halt (.fetchOutOfRange s.pc))) ∨
    (∃ w e, s.fetch? = some w ∧ decodeWord w = .rejected e ∧
      cycle run s = .next (s.advance.halt (.unknownOpcode s.pc w))) ∨
    (∃ w i, s.fetch? = some w ∧ decodeWord w = .instr i ∧ cycle run s = run i s.advance) := by
  cases hf : s.fetch? with
  | none => exact .inl ⟨fetch?_eq_none.1 hf, by simp [cycle, h, hf, raise]⟩
  | some w =>
    cases hd : decodeWord w with
    | instr i => exact .inr (.inr ⟨w, i, rfl, hd, by simp [cycle, h, hf, executeWord, hd]⟩)
    | rejected e => exact .inr (.inl ⟨w, e, rfl, hd, by simp [cycle, h, hf, executeWord, hd, raise]⟩)

/-- The bytes the host numbers stand where the next step fetches (log entry 22). -/
theorem placeBytes_pc_le (s : State) (bs : List Byte) : (s.placeBytes bs).pc.toNat ≤ 0x0FFE := by
  simp only [State.placeBytes]
  split
  · assumption
  · decide

end Sys2Proof.Machine
end

