-- ==== Sys2Proof/Tests/Slice0.lean ====
section
/-! SUPPORT. The model's own tests. Expected results are those of spec/95_test_vectors.md (its row or
property is named) or of the rule named; then one witness for the hypotheses of each statement. -/

namespace Sys2Proof.Tests

open Sys2Proof.Machine

/-! ## Helpers -/

/-- A fresh machine with registers set and `I` given. -/
def boot (rs : List (RegIdx × Byte)) (i : Word) : State :=
  rs.foldl (fun s p => s.setV p.1 p.2) (State.reset.setI i)

/-- What an answer shows, where it is a next state. -/
def shown {α : Type} (r : Result) (f : State → α) : Option α :=
  match r with
  | .next t => some (f t)
  | .fault _ => none
  | .refused _ => none

/-- One step on a word at the fetch address, and what it shows. -/
def ran {α : Type} (s : State) (w : Nat) (f : State → α) : Option α :=
  shown (step (s.withFetchWord 16 w)) f

/-- `Vx`, `VF` and `pc`. -/
def view (x : RegIdx) (t : State) : Byte × Byte × Word := (t.getV x, t.getV regF, t.pc)

/-- A machine with the keys of a list down. -/
def holding (ks : List Nat) : State := ks.foldl (fun s k => setKey k true s) State.reset

/-! ## Well-formedness: each check refuses an ill-formed term -/

theorem test_font_length_refused :
    Config.fontOk { pcReset := 0x200, font := List.replicate 79 0 } = false := by decide

theorem test_pc_reset_refused :
    Config.pcResetOk { pcReset := 0x0FFF, font := defaultFont } = false := by decide

theorem test_config_refused :
    Config.wellFormed { pcReset := 0x0FFF, font := [] } = false := by decide

/-- CREATE has no move on them (U16; R292). -/
theorem test_create_refused :
    Session.start { pcReset := 0x200, font := List.replicate 81 0 } = .noMove .createInput ∧
    Session.start { pcReset := 0x0FFF, font := defaultFont } = .noMove .createInput := by decide

theorem test_program_too_long_refused (bytes : List Byte) (h : bytes.length = 3585) :
    programFits bytes = false := by
  simp [programFits, h]

theorem test_key_index_refused : keyIndexOk 16 = false := by decide

/-- No instruction term is ill-formed: every field value of its type is legal (R89), the extreme ones
among them. -/
theorem test_every_field_value_is_wellFormed :
    Instr.wellFormed (.shr 15 15) = true ∧ Instr.wellFormed (.drw 0 15 0) = true := by decide

/-! ## Decoding: words written out bit by bit from spec/30_encoding.md R83 and R86 -/

theorem test_decode_exact : decodeWord 0b0000000000000000 = .instr .nop ∧
    decodeWord 0b0000000011100000 = .instr .cls ∧ decodeWord 0b0000000011101110 = .instr .ret := by
  decide

theorem test_decode_address : decodeWord 0b0001101010111100 = .instr (.jp 0xABC) ∧
    decodeWord 0b0010101010111100 = .instr (.call 0xABC) ∧
    decodeWord 0b1010000100100011 = .instr (.ldI 0x123) ∧
    decodeWord 0b1011001100000000 = .instr (.jpV0 0x300) := by decide

theorem test_decode_immediate : decodeWord 0b0011000101000010 = .instr (.seImm 1 0x42) ∧
    decodeWord 0b0100000101000010 = .instr (.sneImm 1 0x42) ∧
    decodeWord 0b0110101001111111 = .instr (.ldImm 0xA 0x7F) ∧
    decodeWord 0b0111001000000011 = .instr (.addImm 2 3) ∧
    decodeWord 0b1100001100001111 = .instr (.rnd 3 0x0F) := by decide

theorem test_decode_register : decodeWord 0b0101000100100000 = .instr (.seReg 1 2) ∧
    decodeWord 0b1001000100100000 = .instr (.sneReg 1 2) ∧
    decodeWord 0b1000000100100000 = .instr (.ldReg 1 2) ∧
    decodeWord 0b1000000100100001 = .instr (.orReg 1 2) ∧
    decodeWord 0b1000000100100010 = .instr (.andReg 1 2) ∧
    decodeWord 0b1000000100100011 = .instr (.xorReg 1 2) := by decide

theorem test_decode_flag_writers : decodeWord 0b1000000100100100 = .instr (.addReg 1 2) ∧
    decodeWord 0b1000000100100101 = .instr (.subReg 1 2) ∧
    decodeWord 0b1000000111110110 = .instr (.shr 1 15) ∧
    decodeWord 0b1000000100100111 = .instr (.subnReg 1 2) ∧
    decodeWord 0b1000000100101110 = .instr (.shl 1 2) := by decide

theorem test_decode_draw_and_keys : decodeWord 0b1101000100101111 = .instr (.drw 1 2 0xF) ∧
    decodeWord 0b1110010010011110 = .instr (.skp 4) ∧
    decodeWord 0b1110010010100001 = .instr (.sknp 4) := by decide

theorem test_decode_timers : decodeWord 0b1111001100000111 = .instr (.ldVxDT 3) ∧
    decodeWord 0b1111010100001010 = .instr (.ldVxK 5) ∧
    decodeWord 0b1111001000010101 = .instr (.ldDTVx 2) ∧
    decodeWord 0b1111001000011000 = .instr (.ldSTVx 2) := by decide

theorem test_decode_index_memory : decodeWord 0b1111001000011110 = .instr (.addIVx 2) ∧
    decodeWord 0b1111000100101001 = .instr (.ldFVx 1) ∧
    decodeWord 0b1111000100110011 = .instr (.ldBVx 1) ∧
    decodeWord 0b1111001001010101 = .instr (.storeRegs 2) ∧
    decodeWord 0b1111001001100101 = .instr (.loadRegs 2) := by decide

/-- Near misses of section 2.7. -/
theorem test_decode_rejects : [0x00E1, 0x0123, 0x5AB1, 0x8AB8, 0x9AB1, 0xE19F, 0xF000, 0xFF66].all
    (fun w => decodeWord w == .rejected (.unknownOpcode w)) = true := by decide

theorem test_decode_truncated : decode [0x12] = .rejected .truncated := by decide

theorem test_bytes_big_endian : decode [0x12, 0x34] = .instr (.jp 0x234) ∧
    encodeBytes (.jp 0x234) = [0x12, 0x34] := by decide

/-! ## Reset and control flow (sections 2.1 and 2.6, R37) -/

theorem test_create_font_leaves_no_cell : Memory.writeSpan [] 0x50 fontRows0to3 = [] ∧
    Memory.writeSpan [] 0x8C fontRowsCtoF = [] := by decide

theorem test_nop : ran State.reset 0x0000 (fun t => t.pc) = some 0x0202 := by decide

theorem test_jp : ran State.reset 0x1ABC (fun t => t.pc) = some 0x0ABC := by decide

theorem test_call : ran State.reset 0x2ABC (fun t => (t.pc, t.sp, t.stack[0])) =
    some (0x0ABC, 1, 0x0202) := by decide

theorem test_call_overflow : ran (State.reset.setSp 16) 0x2ABC (fun t => (t.pc, t.sp, t.halted)) =
    some (0x0202, 16, some (.stackOverflow 0x0200 0x2ABC)) := by decide

theorem test_ret : ran ((State.reset.setSp 1).setStack (Vector.replicate 16 0x0206)) 0x00EE
    (fun t => (t.pc, t.sp, t.stack[0])) = some (0x0206, 0, 0x0206) := by decide

theorem test_ret_underflow : ran State.reset 0x00EE (fun t => (t.pc, t.sp, t.halted)) =
    some (0x0202, 0, some (.stackUnderflow 0x0200 0x00EE)) := by decide

theorem test_se_imm : ran (boot [(1, 0x42)] 0) 0x3142 (fun t => t.pc) = some 0x0204 ∧
    ran (boot [(1, 0x43)] 0) 0x3142 (fun t => t.pc) = some 0x0202 := by decide

theorem test_sne_imm : ran (boot [(1, 0x42)] 0) 0x4142 (fun t => t.pc) = some 0x0202 ∧
    ran (boot [(1, 0x43)] 0) 0x4142 (fun t => t.pc) = some 0x0204 := by decide

theorem test_se_reg : ran (boot [(1, 7), (2, 7)] 0) 0x5120 (fun t => t.pc) = some 0x0204 ∧
    ran (boot [(1, 7), (2, 8)] 0) 0x5120 (fun t => t.pc) = some 0x0202 := by decide

theorem test_sne_reg : ran (boot [(1, 7), (2, 7)] 0) 0x9120 (fun t => t.pc) = some 0x0202 ∧
    ran (boot [(1, 7), (2, 8)] 0) 0x9120 (fun t => t.pc) = some 0x0204 := by decide

theorem test_jp_v0 : ran (boot [(0, 0xFF)] 0) 0xBFFF (fun t => t.pc) = some 0x10FE := by decide

theorem test_fetch_fault : shown (step (State.reset.setPc 0x0FFF)) (fun t => (t.pc, t.halted)) =
    some (0x0FFF, some (.fetchOutOfRange 0x0FFF)) := by decide

theorem test_unknown_opcode : ran State.reset 0xF000 (fun t => (t.pc, t.halted)) =
    some (0x0202, some (.unknownOpcode 0x0200 0xF000)) := by decide

/-! ## Registers and arithmetic (section 2.2) -/

theorem test_ld_imm : ran State.reset 0x6F07 (view 15) = some (7, 7, 0x0202) := by decide

theorem test_add_imm_sets_no_flag : ran (boot [(1, 0xFF), (15, 0)] 0) 0x7101 (view 1) =
    some (0, 0, 0x0202) := by decide

theorem test_ld_reg : ran (boot [(1, 0xAA), (2, 0x55), (15, 1)] 0) 0x8120 (view 1) =
    some (0x55, 1, 0x0202) := by decide

theorem test_or : ran (boot [(1, 0xA0), (2, 0x0A), (15, 1)] 0) 0x8121 (view 1) =
    some (0xAA, 1, 0x0202) := by decide

theorem test_and : ran (boot [(1, 0xF0), (2, 0x3C), (15, 1)] 0) 0x8122 (view 1) =
    some (0x30, 1, 0x0202) := by decide

theorem test_xor : ran (boot [(1, 0xFF), (2, 0x0F), (15, 1)] 0) 0x8123 (view 1) =
    some (0xF0, 1, 0x0202) := by decide

theorem test_add_carry : ran (boot [(1, 0xFF), (2, 1)] 0) 0x8124 (view 1) = some (0, 1, 0x0202) ∧
    ran (boot [(1, 0xFE), (2, 1)] 0) 0x8124 (view 1) = some (0xFF, 0, 0x0202) := by decide

theorem test_add_into_flag : ran (boot [(15, 0x10), (1, 0x20)] 0) 0x8F14 (view 15) =
    some (0, 0, 0x0202) := by decide

theorem test_sub_borrow : ran (boot [(1, 3), (2, 5)] 0) 0x8125 (view 1) = some (0xFE, 0, 0x0202) ∧
    ran (boot [(1, 7), (2, 7)] 0) 0x8125 (view 1) = some (0, 1, 0x0202) := by decide

theorem test_sub_into_flag : ran (boot [(15, 5), (1, 3)] 0) 0x8F15 (view 15) =
    some (1, 1, 0x0202) := by decide

theorem test_shr : ran (boot [(1, 5), (2, 0xFF)] 0) 0x8126 (view 1) = some (2, 1, 0x0202) ∧
    ran (boot [(15, 7)] 0) 0x8F16 (view 15) = some (3, 3, 0x0202) := by decide

theorem test_subn : ran (boot [(1, 7), (2, 7)] 0) 0x8127 (view 1) = some (0, 0, 0x0202) ∧
    ran (boot [(1, 5), (2, 3)] 0) 0x8127 (view 1) = some (0xFE, 0, 0x0202) := by decide

theorem test_subn_with_flag : ran (boot [(15, 5), (1, 3)] 0) 0x8F17 (view 15) =
    some (0xFE, 0xFE, 0x0202) ∧
    ran (boot [(1, 3), (15, 5)] 0) 0x81F7 (view 1) = some (2, 1, 0x0202) := by decide

theorem test_shl : ran (boot [(1, 0x81), (2, 0xFF)] 0) 0x812E (view 1) = some (2, 1, 0x0202) ∧
    ran (boot [(15, 0x41)] 0) 0x8F1E (view 15) = some (0x82, 0x82, 0x0202) := by decide

theorem test_rnd_given_byte : shown (stepWith 0xA7 (State.reset.withFetchWord 16 0xC30F))
    (fun t => t.getV 3) = some 0x07 := by decide

/-! ## Index register and memory (section 2.3) -/

theorem test_ld_i : ran State.reset 0xA123 (fun t => t.i) = some 0x0123 := by decide

theorem test_add_i_wraps : ran (boot [(1, 0x20), (15, 7)] 0xFFF0) 0xF11E
    (fun t => (t.i, t.getV regF)) = some (0x0010, 7) := by decide

theorem test_ld_f : ran (boot [(1, 0x0A)] 0) 0xF129 (fun t => t.i) = some 0x0082 ∧
    ran (boot [(1, 0xFF)] 0) 0xF129 (fun t => t.i) = some 0x054B := by decide

theorem test_ld_b : ran (boot [(1, 0x7B)] 0x0300) 0xF133
    (fun t => (t.byteAt 0x300, t.byteAt 0x301, t.byteAt 0x302, t.i)) =
    some (1, 2, 3, 0x0300) := by decide

theorem test_ld_b_fault : ran (boot [(1, 0xFF)] 0x0FFE) 0xF133 (fun t => (t.byteAt 0xFFE, t.halted)) =
    some (0, some (.memOutOfRange 0x1000 0x0200 0xF133)) := by decide

theorem test_store_regs : ran (boot [(0, 0x11), (1, 0x22), (2, 0x33), (3, 0x44)] 0x0300) 0xF255
    (fun t => (t.mem.readSpan 0x300 4, t.i)) = some ([0x11, 0x22, 0x33, 0], 0x0300) := by decide

theorem test_store_regs_fault : ran (boot [(0, 0xEE), (1, 0xEE)] 0x0FFF) 0xF155
    (fun t => (t.byteAt 0xFFF, t.halted)) =
    some (0, some (.memOutOfRange 0x1000 0x0200 0xF155)) := by decide

theorem test_load_regs : ran ((boot [(3, 0x77)] 0x0400).setMem [(0x400, 0xDE), (0x401, 0xAD),
    (0x402, 0xBE), (0x403, 0xEF)]) 0xF265 (fun t => (t.getV 0, t.getV 2, t.getV 3)) =
    some (0xDE, 0xBE, 0x77) := by decide

theorem test_load_regs_fault : ran (boot [(0, 0xEE)] 0x1000) 0xF065
    (fun t => (t.getV 0, t.halted)) =
    some (0xEE, some (.memOutOfRange 0x1000 0x0200 0xF065)) := by decide

/-- A stored byte equal to what the address reads as leaves no cell: `FONT[0]` back at 0x050. -/
theorem test_memory_canonical : Memory.write [(0x50, 1), (0x300, 2)] 0x50 0xF0 = [(0x300, 2)] ∧
    Memory.write [(0x300, 2)] 0x60 7 = [(0x60, 7), (0x300, 2)] := by decide

/-! ## Display (section 2.4) -/

theorem test_cls : ran ((boot [(15, 1)] 0).setFb (Vector.replicate 32 0xFF)) 0x00E0
    (fun t => (t.fb.row 0, t.fb.row 31, t.getV regF)) = some (0, 0, 1) := by decide

/-- T7: `0xFF` at (60, 0) sets columns 60 to 63 and 0 to 3 of row 0. -/
theorem test_drw_wraps : ran ((boot [(0, 0x3C)] 0x0300).setMem [(0x300, 0xFF)]) 0xD011
    (fun t => (t.fb.row 0, t.fb.row 1, t.getV regF)) = some (0xF00000000000000F, 0, 0) := by decide

theorem test_drw_collides : ran ((boot [(0, 0x3C)] 0x0300).setMem [(0x300, 0xFF)] |>.setFb
    (Vector.replicate 32 0xF00000000000000F)) 0xD011
    (fun t => (t.fb.row 0, t.fb.row 1, t.getV regF)) = some (0, 0xF00000000000000F, 1) := by decide

/-! ## Keypad, timers and events (sections 2.5 and 2.6) -/

theorem test_skp : ran ((holding [5]).setV 1 5) 0xE19E (fun t => t.pc) = some 0x0204 ∧
    ran ((holding [4]).setV 1 5) 0xE19E (fun t => t.pc) = some 0x0202 := by decide

theorem test_skp_fault : ran (boot [(1, 0x10)] 0) 0xE19E (fun t => (t.pc, t.halted)) =
    some (0x0202, some (.keyIndexOutOfRange 0x0200 0xE19E 0x10)) := by decide

theorem test_sknp : ran ((holding [5]).setV 1 5) 0xE1A1 (fun t => t.pc) = some 0x0202 ∧
    ran (boot [(1, 5)] 0) 0xE1A1 (fun t => t.pc) = some 0x0204 := by decide

theorem test_sknp_fault : ran (boot [(1, 0xFF)] 0) 0xE1A1 (fun t => t.halted) =
    some (some (.keyIndexOutOfRange 0x0200 0xE1A1 0xFF)) := by decide

theorem test_ld_vx_dt : ran (State.reset.setDT 0x39) 0xF307 (fun t => (t.getV 3, t.dt)) =
    some (0x39, 0x39) := by decide

theorem test_ld_vx_k : ran (holding [14, 2, 9]) 0xF40A (fun t => (t.getV 4, t.pc)) =
    some (2, 0x0202) := by decide

theorem test_ld_vx_k_waits : ran (boot [(4, 0x77)] 0) 0xF40A (fun t => (t.getV 4, t.pc)) =
    some (0x77, 0x0200) := by decide

theorem test_ld_dt : ran (boot [(1, 0x3C)] 0) 0xF115 (fun t => (t.dt, t.st)) = some (0x3C, 0) := by
  decide

theorem test_ld_st : ran (boot [(2, 2)] 0) 0xF218 (fun t => (t.dt, t.st)) = some (0, 2) := by decide

theorem test_tick : (tick ((State.reset.setDT 0xFF).setST 1)).dt = 0xFE ∧
    (tick ((State.reset.setDT 0xFF).setST 1)).st = 0 ∧ (tick State.reset).dt = 0 := by decide

theorem test_load_odd_image : load [0x12] State.reset = .loaded (State.reset.setMem [(0x200, 0x12)]) := by
  decide

/-! ## Witnesses: a state and operands that meet the hypotheses of each statement -/

theorem witness_ValuesAfterCreate : Config.standard.wellFormed = true ∧
    Config.wellFormed { pcReset := 0x0FFE, font := List.replicate 80 1 } = true := by decide

theorem witness_InvHoldsAfterCreate : Config.literal.wellFormed = true := by decide

theorem witness_StepKeepsInv : State.reset.Inv ∧ (shown (step State.reset) (fun t => t.pc)).isSome := by
  decide

theorem witness_RunOfEventsKeepsInv : State.reset.Inv ∧
    (Session.run ⟨State.reset, .created⟩ [.load [0x60, 5], .setKey 3 true, .step 0, .tick, .readFb]).isSome := by
  decide

theorem witness_CanonicalMemoryIsExtensional : Memory.wf [(0x200, 1), (0xFFF, 2)] ∧
    ∀ a : Nat, a < 4096 → Memory.read [(0x200, 1), (0xFFF, 2)] a = Memory.read [(0x200, 1), (0xFFF, 2)] a :=
  ⟨by decide, fun _ _ => rfl⟩

theorem witness_DecodeOfEncode : Instr.wellFormed (.drw 15 0 15) = true := by decide

theorem witness_EncodeOfDecode : decodeWord 0x81F6 = .instr (.shr 1 15) := by decide

theorem witness_OpcodeRowsDisjoint : (0x1FFF : Word) &&& opRows[3].mask = opRows[3].code ∧
    ∀ j : Fin opRows.length, (0xFFFF : Word) &&& opRows[j].mask ≠ opRows[j].code := by decide

theorem witness_StepRunsDecodedInstruction : ∃ s : State, s.halted = none ∧ s.pc.toNat ≤ 0x0FFE ∧
    decode [s.byteAt s.pc.toNat, s.byteAt (s.pc.toNat + 1)] = .instr (.jp 0xFFF) :=
  ⟨(State.reset.setPc 0x0FFE).withFetchWord 16 0x1FFF, by decide⟩

theorem witness_FetchOutsideMemoryHalts : ∃ s : State, s.halted = none ∧ 0x0FFE < s.pc.toNat :=
  ⟨State.reset.setPc 0x0FFF, by decide⟩

theorem witness_IllegalWordHalts : ∃ s : State, s.halted = none ∧ s.pc.toNat ≤ 0x0FFE ∧
    (0x5AB1 : Word).toNat = 256 * (s.byteAt s.pc.toNat).toNat + (s.byteAt (s.pc.toNat + 1)).toNat ∧
    illegalWord 0x5AB1 = true :=
  ⟨(State.reset.setPc 0x0FFE).withFetchWord 16 0x5AB1, by decide⟩

theorem witness_StepEnabledExactlyWhenNotHalted :
    (State.reset.halt (.fetchOutOfRange 0x1000)).halted = some (.fetchOutOfRange 0x1000) ∧
    (State.reset.setSp 16).sp.toNat ≤ 16 ∧ (State.reset.setSp 16).halted = none := by decide

theorem witness_FaultChangesOnlyPcAndLatch :
    shown (step (State.reset.setPc 0x0FFF)) (fun t => t.halted.isSome) = some true ∧
    ran (State.reset.setPc 0x0FFE) 0x00EE (fun t => t.halted.isSome) = some true := by decide

theorem witness_FaultsAreTheSixOfTheTable : ran State.reset 0x00EE (fun t => t.halted.isSome) = some true ∧
    ran State.reset 0x0000 (fun t => t.halted.isSome) = some false := by decide

theorem witness_PcAfterEveryStep : ∃ s : State, s.fetch? = some 0x00EE ∧
    decodeWord 0x00EE = .instr .ret ∧ (shown (step s) (fun t => t.pc)).isSome :=
  ⟨State.reset.withFetchWord 16 0x00EE, by decide⟩

theorem witness_PcAfterFetchFault : 0x0FFE < (State.reset.setPc 0x0FFF).pc.toNat ∧
    (shown (step (State.reset.setPc 0x0FFF)) (fun t => t.pc)).isSome := by decide

theorem witness_CallPushesReturnAddress : (State.reset.setSp 0).sp.toNat < 16 ∧
    (State.reset.setSp 15).sp.toNat < 16 ∧ (State.reset.setSp 16).sp.toNat = 16 := by decide

theorem witness_RetPopsReturnAddress : (State.reset.setSp 1).sp.toNat = (0 : Fin 16).val + 1 ∧
    (State.reset.setSp 16).sp.toNat = (15 : Fin 16).val + 1 ∧ State.reset.sp.toNat = 0 := by decide

theorem witness_RetAfterCallRestoresPc : (State.reset.setSp 15).sp.toNat < 16 ∧
    ∃ t : State, exec (.call 0x300) (State.reset.setSp 15) = .next t ∧ t.stack = t.stack ∧ t.sp = t.sp :=
  ⟨by decide, _, rfl, rfl, rfl⟩

theorem witness_StackPointerAboveSixteenStops : 16 < (State.reset.setSp 17).sp.toNat := by decide

theorem witness_AddAndSubWriteResultThenFlag : (0 : RegIdx) ≠ regF := by decide

theorem witness_ShiftsAndSubnWriteFlagThenResult : (14 : RegIdx) ≠ regF := by decide

theorem witness_OnlyRndSeesTheStepsByte : ∃ s : State,
    ∀ w x kk, s.fetch? = some w → decodeWord w ≠ .instr (.rnd x kk) := by
  refine ⟨State.reset, fun w x kk h => ?_⟩
  have e : State.reset.fetch? = some 0 := by decide
  rw [e, Option.some.injEq] at h
  subst h
  have d : decodeWord 0 = .instr .nop := by decide
  rw [d]
  exact fun h => by cases h

theorem witness_BcdStoresThreeDigits : (State.reset.setI 0x0FFD).i.toNat + 2 ≤ 0x0FFF ∧
    0x0FFF < (State.reset.setI 0x0FFE).i.toNat + 2 := by decide

theorem witness_StoreRegsWritesMemoryFromI :
    (State.reset.setI 0x0FF0).i.toNat + (15 : RegIdx).val ≤ 0x0FFF ∧
    0x0FFF < (State.reset.setI 0x0FF1).i.toNat + (15 : RegIdx).val := by decide

theorem witness_LoadRegsReadsMemoryFromI :
    (State.reset.setI 0x0FFF).i.toNat + (0 : RegIdx).val ≤ 0x0FFF ∧
    0x0FFF < (State.reset.setI 0x1000).i.toNat + (0 : RegIdx).val := by decide

theorem witness_LoadAfterStoreRestoresRegisters :
    (State.reset.setI 0x0FF0).i.toNat + (15 : RegIdx).val ≤ 0x0FFF ∧
    ∃ t : State, exec (.storeRegs 15) (State.reset.setI 0x0FF0) = .next t ∧
      (∀ a, t.byteAt a = t.byteAt a) ∧ t.i = t.i :=
  ⟨by decide, _, rfl, fun _ => rfl, rfl⟩

theorem witness_StoredBytesAreFetchedNext : ∃ s : State, s.pc.toNat ≤ 0x0FFE ∧
    s.i.toNat + (15 : RegIdx).val ≤ 0x0FFF ∧
    (∃ bs : List Byte, bs.map BitVec.toNat =
      [(s.getV 1).toNat / 100, (s.getV 1).toNat / 10 % 10, (s.getV 1).toNat % 10]) ∧
    s.i.toNat + 2 ≤ 0x0FFF :=
  ⟨(boot [(1, 0xFF)] 0x0FF0).setPc 0x0FFE, by decide, by decide, ⟨[2, 5, 5], by decide⟩, by decide⟩

theorem witness_DrwXorsSpriteAndReportsCollision :
    ((0 : Nibble) = 0 ∨ (State.reset.setI 0xFFFF).i.toNat + (0 : Nibble).toNat - 1 ≤ 0x0FFF) ∧
    ((1 : Nibble) = 0 ∨ (State.reset.setI 0x0FFF).i.toNat + (1 : Nibble).toNat - 1 ≤ 0x0FFF) ∧
    ((2 : Nibble) ≠ 0 ∧ 0x0FFF < (State.reset.setI 0x0FFF).i.toNat + (2 : Nibble).toNat - 1) := by
  decide

theorem witness_DrwTwiceRestoresTheScreen : (0 : RegIdx) ≠ regF ∧ (14 : RegIdx) ≠ regF ∧
    (State.reset.setI 0x0FF1).i.toNat + (15 : Nibble).toNat ≤ 0x1000 := by decide

theorem witness_KeySkipsTestTheKeyOrHalt : (boot [(1, 15)] 0).getV 1 = 15 ∧
    ((boot [(1, 15)] 0).getV 1).toNat = (15 : Fin 16).val ∧
    15 < ((boot [(1, 16)] 0).getV 1).toNat := by decide

theorem witness_KeyWaitTakesLowestKeyOrRepeats : (holding [15]).key[(15 : Fin 16)] = true ∧
    (∀ j : Fin 16, j < 15 → (holding [15]).key[j] = false) ∧
    (∀ k : Fin 16, (State.reset.withFetchWord 16 0xF50A).key[k] = false) ∧
    (State.reset.withFetchWord 16 0xF50A).halted = none ∧
    (State.reset.withFetchWord 16 0xF50A).fetch? = some (encode (.ldVxK 5)) := by decide

theorem witness_IdleLoopIsAFixedPoint : ∃ s : State, s.idle :=
  ⟨State.reset.withFetchWord 16 0x1200, by unfold State.running; decide, 0x200, by decide, by decide⟩

theorem witness_SetKeyWritesOneKey : (15 : Nat) < 16 := by decide

theorem witness_LoadCopiesProgramOrFails : 0x200 + (List.replicate 3584 (0 : Byte)).length ≤ 4096 ∧
    (⟨State.reset, .created⟩ : Session).phase = .created ∧
    4096 < 0x200 + (List.replicate 3585 (0 : Byte)).length := by
  refine ⟨?_, rfl, ?_⟩ <;> rw [List.length_replicate] <;> decide

theorem witness_ReadFbReturnsThePixels : ∃ p : Session, p.phase = .loaded :=
  ⟨⟨State.reset, .loaded⟩, rfl⟩

theorem witness_BrokenHostDutiesHaveNoMove :
    (Config.font { pcReset := 0x200, font := List.replicate 79 0 }).length ≠ 80 ∧
    0x0FFE < (Config.pcReset { pcReset := 0x0FFF, font := defaultFont }).toNat ∧
    (⟨State.reset, .created⟩ : Session).phase = .created ∧ 16 ≤ (16 : Nat) ∧
    ∃ p : Session, p.phase = .loaded ∧ p.machine.halted = some (.fetchOutOfRange 0x1000) :=
  ⟨by decide, by decide, rfl, by decide, ⟨State.reset.halt (.fetchOutOfRange 0x1000), .loaded⟩, rfl, rfl⟩

theorem witness_HaltedIsAbsorbing : ∃ p : Session, p.phase = .loaded ∧
    p.machine.halted = some (.fetchOutOfRange 0x1000) ∧
    (p.run [.tick, .setKey 15 true, .readFb]).isSome :=
  ⟨⟨State.reset.halt (.fetchOutOfRange 0x1000), .loaded⟩, by decide⟩

theorem witness_SessionMovesInTheBootOrder : Config.standard.font.length = 80 ∧
    Config.standard.pcReset.toNat ≤ 0x0FFE ∧
    (∃ p : Session, p.phase = .created ∧ 0x200 + ([0x12, 0x00] : List Byte).length ≤ 4096) ∧
    ∃ p : Session, p.phase = .loaded ∧ p.machine.halted = none ∧ p.machine.sp.toNat ≤ 16 :=
  ⟨by decide, by decide, ⟨⟨State.reset, .created⟩, by decide⟩,
    ⟨⟨State.reset.setSp 16, .loaded⟩, by decide⟩⟩

/-- RND as the event STEP moves, its byte given. -/
theorem witness_NoEventReadsOrWritesTheCountOfDraws : ∃ (p q : Session) (r : Response),
    p.act (.step 0xA7) = .moved q r ∧ q.machine.getV 3 = 0x07 :=
  ⟨⟨State.reset.withFetchWord 16 0xC30F, .loaded⟩, _, _, rfl, by decide⟩

theorem witness_OnlyTheNamedInstructionsWriteEachElement :
    shown (exec (.ldDTVx 1) (boot [(1, 5)] 0)) (fun t => t.dt) = some 5 ∧
    shown (exec (.ldBVx 1) (boot [(1, 5)] 0x300)) (fun t => t.byteAt 0x302) = some 5 := by decide

theorem witness_RegistersChangeOnlyAsDestinationOrFlag :
    shown (exec (.addReg 1 2) (boot [(1, 0xFF), (2, 0xFF)] 0)) (fun t => (t.getV 1, t.getV regF)) =
      some (0xFE, 1) := by decide

theorem witness_SoundTimerDoesNotInterfere : (shown (step State.reset) (fun t => t.st)).isSome ∧
    (shown (stepWith 0xA7 (State.reset.withFetchWord 16 0xC30F)) (fun t => t.st)).isSome := by
  decide

theorem witness_EachRndStepTakesItsOwnFreeByte :
    (∃ s t : State, step s = .next t ∧ s.fetch? = some (encode (.rnd 3 0x0F))) ∧
    ∃ s t : State, step s = .next t ∧ ∀ x kk, s.fetch? ≠ some (encode (.rnd x kk)) := by
  refine ⟨⟨State.reset.withFetchWord 16 0xC30F, _, rfl, by decide⟩, State.reset, _, rfl, fun x kk h => ?_⟩
  have e : State.reset.fetch? = some 0 := by decide
  have d : (0 : Word) = encI 0xC x kk := Option.some.inj (e.symm.trans h)
  have n := congrArg BitVec.toNat d
  rw [toNat_encI] at n
  simp at n
  omega

theorem witness_PlacedWordRunsNext : decodeTableWord 16 0xFF65 = some (.loadRegs 15) := by decide

end Sys2Proof.Tests
end

section
/-! SUPPORT. What an instruction can do to the state, said once for all 35 (`exec_effect`). -/

namespace Sys2Proof.Machine

/-! ## The instructions that test before they act -/

/-- A stack fault that answers a next state is the one of the spec (spec/60_exceptions.md R253, R254). -/
theorem stackFault_next {bad : Byte} {r : FaultRecord} {s t : State}
    (h : stackFault bad r s = .next t) : t = s.halt r := by
  unfold stackFault at h
  split at h
  · exact raise_eq_next.1 h
  · cases h

/-- RET pops, or it faults (spec/41_control_flow.md R131). -/
theorem execRet_next {s t : State} (h : execRet s = .next t) :
    (∃ hs : 0 < s.sp.toNat ∧ s.sp.toNat ≤ 16,
      t = (s.setSp (s.sp - 1)).setPc (s.stack[s.sp.toNat - 1]'(by omega))) ∨ ∃ r, t = s.halt r := by
  unfold execRet at h
  split at h
  · next w u hp =>
    obtain ⟨hs, rfl, rfl⟩ := pop?_eq_some.1 hp
    cases h
    exact .inl ⟨hs, rfl⟩
  · exact .inr ⟨_, stackFault_next h⟩

/-- CALL pushes and jumps, or it faults (R133). -/
theorem execCall_next {nnn : Addr12} {s t : State} (h : execCall nnn s = .next t) :
    (∃ hs : s.sp.toNat < 16, t = ((s.setStack (s.stack.set s.sp.toNat s.pc hs)).setSp
      (s.sp + 1)).setPc (zextAddr nnn)) ∨ ∃ r, t = s.halt r := by
  unfold execCall at h
  split at h
  · next u hp =>
    obtain ⟨hs, rfl⟩ := push?_eq_some.1 hp
    cases h
    exact .inl ⟨hs, rfl⟩
  · exact .inr ⟨_, stackFault_next h⟩

/-- SKP tests a key, or it faults (spec/45_keypad_timers.md R220). -/
theorem execSkp_next {x : RegIdx} {s t : State} (h : execSkp x s = .next t) :
    (∃ down, s.keyDown? (s.getV x).toNat = some down ∧ t = s.skipIf down) ∨ ∃ r, t = s.halt r := by
  unfold execSkp at h
  split at h
  · next down hk => cases h; exact .inl ⟨down, hk, rfl⟩
  · exact .inr ⟨_, raise_eq_next.1 h⟩

/-- SKNP tests a key, or it faults (R221). -/
theorem execSknp_next {x : RegIdx} {s t : State} (h : execSknp x s = .next t) :
    (∃ down, s.keyDown? (s.getV x).toNat = some down ∧ t = s.skipIf (!down)) ∨
      ∃ r, t = s.halt r := by
  unfold execSknp at h
  split at h
  · next down hk => cases h; exact .inl ⟨down, hk, rfl⟩
  · exact .inr ⟨_, raise_eq_next.1 h⟩

/-- LD Vx, K takes a key, or it takes `pc` back (R223). -/
theorem execLdVxK_next {x : RegIdx} {s t : State} (h : execLdVxK x s = .next t) :
    (∃ k, s.lowestKey? = some k ∧ t = s.setV x (BitVec.ofNat 8 k)) ∨
      (s.lowestKey? = none ∧ t = s.setPc (s.pc - 2)) := by
  unfold execLdVxK at h
  split at h
  · next k hk => cases h; exact .inl ⟨k, hk, rfl⟩
  · next hk => cases h; exact .inr ⟨hk, rfl⟩

/-- DRW writes the framebuffer and `VF`, or it faults (spec/44_display.md R201). -/
theorem execDrw_next {x y : RegIdx} {n : Nibble} {s t : State} (h : execDrw x y n s = .next t) :
    (∃ f b, t = (s.setFb f).setV regF b) ∨ ∃ r, t = s.halt r := by
  unfold execDrw at h
  split at h
  · cases h; exact .inl ⟨_, _, rfl⟩
  · exact .inr ⟨_, raise_eq_next.1 h⟩

/-- A store that answers puts its bytes at addresses that exist. -/
theorem store?_eq_some_of_ne_nil {s t : State} {a : Nat} {bs : List Byte} (hbs : bs ≠ [])
    (h : s.store? a bs = some t) :
    a + bs.length ≤ memSize ∧ t = s.setMem (s.mem.writeSpan a bs) := by
  obtain ⟨hspan, rfl⟩ := store?_eq_some.1 h
  exact ⟨hspan.resolve_left hbs, rfl⟩

/-- LD B stores at addresses that exist, or it faults (spec/43_index_memory.md R183). -/
theorem execLdBVx_next {x : RegIdx} {s t : State} (h : execLdBVx x s = .next t) :
    (∃ a bs, a + List.length bs ≤ memSize ∧ t = s.setMem (s.mem.writeSpan a bs)) ∨
      ∃ r, t = s.halt r := by
  unfold execLdBVx at h
  split at h
  · next u hu =>
    cases h
    exact .inl ⟨_, _, store?_eq_some_of_ne_nil (by simp [bcdDigits]) hu⟩
  · exact .inr ⟨_, raise_eq_next.1 h⟩

/-- LD [I], Vx stores at addresses that exist, or it faults (R184). -/
theorem execStoreRegs_next {x : RegIdx} {s t : State} (h : execStoreRegs x s = .next t) :
    (∃ a bs, a + List.length bs ≤ memSize ∧ t = s.setMem (s.mem.writeSpan a bs)) ∨
      ∃ r, t = s.halt r := by
  unfold execStoreRegs at h
  split at h
  · next u hu =>
    cases h
    exact .inl ⟨_, _, store?_eq_some_of_ne_nil
      (List.ne_nil_of_length_pos (by simp)) hu⟩
  · exact .inr ⟨_, raise_eq_next.1 h⟩

/-- LD Vx, [I] loads `x + 1` registers, or it faults (R185). -/
theorem execLoadRegs_next {x : RegIdx} {s t : State} (h : execLoadRegs x s = .next t) :
    (∃ bs, bs.length = x.val + 1 ∧ t = s.setFirstRegs bs) ∨ ∃ r, t = s.halt r := by
  unfold execLoadRegs at h
  split at h
  · next bs hbs =>
    cases h
    obtain ⟨_, rfl⟩ := load?_eq_some.1 hbs
    exact .inl ⟨_, length_readSpan _ _ _, rfl⟩
  · exact .inr ⟨_, raise_eq_next.1 h⟩

/-! ## The effect of an instruction -/

/-- The registers an instruction may write: its destination, the ones LD Vx, [I] loads, and `VF` where it
writes a flag (spec/10_state.md R21, R22). -/
def writesReg (i : Instr) (r : RegIdx) : Prop :=
  destReg i = some r ∨ (∃ x, i = .loadRegs x ∧ r ≤ x) ∨ (r = regF ∧ writesFlag i = true)

/-- The instructions whose execute phase may write `pc`: the rows of the table of R25. -/
def writesPc : Instr → Bool
  | .seImm _ _ | .sneImm _ _ | .seReg _ _ | .sneReg _ _ | .skp _ | .sknp _ => true
  | .jp _ | .call _ | .ret | .jpV0 _ | .ldVxK _ => true
  | _ => false

/-- The ways an execute phase from `s` can end, each with the one or two elements it writes. -/
inductive Effect (s : State) : Instr → State → Prop
  | fault (i : Instr) (r : FaultRecord) : Effect s i (s.halt r)
  | pc {i : Instr} (h : writesPc i = true) (w : Word) : Effect s i (s.setPc w)
  | regs {i : Instr} {v : Vector Byte 16} (h : ∀ r : RegIdx, v[r] ≠ s.getV r → writesReg i r) :
      Effect s i (s.setRegs v)
  | draw (x : RegIdx) (kk : Byte) : Effect s (.rnd x kk) (s.countDraw.setV x (Config.rnd s &&& kk))
  | index {i : Instr} (h : (∃ nnn, i = .ldI nnn) ∨ (∃ x, i = .addIVx x) ∨ ∃ x, i = .ldFVx x)
      (w : Word) : Effect s i (s.setI w)
  | delayTimer (x : RegIdx) : Effect s (.ldDTVx x) (s.setDT (s.getV x))
  | soundTimer (x : RegIdx) : Effect s (.ldSTVx x) (s.setST (s.getV x))
  | store {i : Instr} (h : (∃ x, i = .ldBVx x) ∨ ∃ x, i = .storeRegs x) {a : Nat} {bs : List Byte}
      (hspan : a + bs.length ≤ memSize) : Effect s i (s.setMem (s.mem.writeSpan a bs))
  | clear : Effect s .cls (s.setFb Framebuffer.clear)
  | sprite (x y : RegIdx) (n : Nibble) (f : Framebuffer) (b : Byte) :
      Effect s (.drw x y n) ((s.setFb f).setV regF b)
  | push (nnn : Addr12) (h : s.sp.toNat < 16) : Effect s (.call nnn)
      (((s.setStack (s.stack.set s.sp.toNat s.pc h)).setSp (s.sp + 1)).setPc (zextAddr nnn))
  | pop (h : 0 < s.sp.toNat ∧ s.sp.toNat ≤ 16) : Effect s .ret
      ((s.setSp (s.sp - 1)).setPc (s.stack[s.sp.toNat - 1]'(by omega)))

namespace Effect

variable {s t : State} {i : Instr}

/-- Writing one register. -/
theorem setV {x : RegIdx} (h : destReg i = some x) (b : Byte) : Effect s i (s.setV x b) := by
  refine .regs (v := s.v.set x b) fun r hr => .inl ?_
  have e := setV_getV s x r b
  by_cases hx : r = x
  · rw [h, hx]
  · exact absurd (e.trans (if_neg hx)) hr

/-- Writing a register and the flag, in either order. -/
theorem setV_setV {q r : RegIdx} (hq : writesReg i q) (hr : writesReg i r) (b c : Byte) :
    Effect s i ((s.setV q b).setV r c) := by
  refine .regs (v := (s.v.set q b).set r c) fun k hk => ?_
  have e : ((s.v.set q b).set r c)[k] = if k = r then c else if k = q then b else s.getV k :=
    (setV_getV (s.setV q b) r k c).trans (by rw [setV_getV])
  by_cases h₁ : k = r
  · exact h₁ ▸ hr
  · by_cases h₂ : k = q
    · exact h₂ ▸ hq
    · exact absurd (by rw [e, if_neg h₁, if_neg h₂]) hk

/-- Loading the registers up to `x`. -/
theorem setFirstRegs {x : RegIdx} {bs : List Byte} (h : bs.length = x.val + 1) :
    Effect s (.loadRegs x) (s.setFirstRegs bs) := by
  refine .regs (v := regsFrom 0 bs s.v) fun r hr => .inr (.inl ⟨x, rfl, ?_⟩)
  by_contra hx
  refine hr ((setFirstRegs_getV s bs r).trans (List.getD_eq_default _ _ ?_))
  rw [Fin.le_def] at hx
  omega

theorem result_then_flag {x : RegIdx} (h : destReg i = some x) (hf : writesFlag i = true)
    (res flag : Byte) : Effect s i (s.setResultThenFlag x res flag) :=
  setV_setV (.inl h) (.inr (.inr ⟨rfl, hf⟩)) res flag

theorem flag_then_result {x : RegIdx} (h : destReg i = some x) (hf : writesFlag i = true)
    (res flag : Byte) : Effect s i (s.setFlagThenResult x res flag) :=
  setV_setV (.inr (.inr ⟨rfl, hf⟩)) (.inl h) flag res

/-- A skip, taken or not. -/
theorem skipIf (h : writesPc i = true) (c : Bool) : Effect s i (s.skipIf c) :=
  skipIf_eq s c ▸ .pc h _

end Effect

/-- What an instruction that answers a next state can have done. -/
theorem exec_effect {i : Instr} {s t : State} (h : exec i s = .next t) : Effect s i t := by
  cases i with
  | nop => cases h; exact .regs (v := s.v) fun _ hr => absurd rfl hr
  | cls => cases h; exact .clear
  | ret =>
    obtain ⟨hs, rfl⟩ | ⟨r, rfl⟩ := execRet_next h
    · exact .pop hs
    · exact .fault _ r
  | jp nnn => cases h; exact .pc rfl _
  | call nnn =>
    obtain ⟨hs, rfl⟩ | ⟨r, rfl⟩ := execCall_next h
    · exact .push nnn hs
    · exact .fault _ r
  | seImm x kk => cases h; exact .skipIf rfl _
  | sneImm x kk => cases h; exact .skipIf rfl _
  | seReg x y => cases h; exact .skipIf rfl _
  | ldImm x kk => cases h; exact .setV rfl _
  | addImm x kk => cases h; exact .setV rfl _
  | ldReg x y => cases h; exact .setV rfl _
  | orReg x y => cases h; exact .setV rfl _
  | andReg x y => cases h; exact .setV rfl _
  | xorReg x y => cases h; exact .setV rfl _
  | addReg x y => cases h; exact .result_then_flag rfl rfl _ _
  | subReg x y => cases h; exact .result_then_flag rfl rfl _ _
  | shr x y => cases h; exact .flag_then_result rfl rfl _ _
  | subnReg x y => cases h; exact .flag_then_result rfl rfl _ _
  | shl x y => cases h; exact .flag_then_result rfl rfl _ _
  | sneReg x y => cases h; exact .skipIf rfl _
  | ldI nnn => cases h; exact .index (.inl ⟨nnn, rfl⟩) _
  | jpV0 nnn => cases h; exact .pc rfl _
  | rnd x kk => cases h; exact .draw x kk
  | drw x y n =>
    obtain ⟨f, b, rfl⟩ | ⟨r, rfl⟩ := execDrw_next h
    · exact .sprite x y n f b
    · exact .fault _ r
  | skp x =>
    obtain ⟨down, -, rfl⟩ | ⟨r, rfl⟩ := execSkp_next h
    · exact .skipIf rfl _
    · exact .fault _ r
  | sknp x =>
    obtain ⟨down, -, rfl⟩ | ⟨r, rfl⟩ := execSknp_next h
    · exact .skipIf rfl _
    · exact .fault _ r
  | ldVxDT x => cases h; exact .setV rfl _
  | ldVxK x =>
    obtain ⟨k, -, rfl⟩ | ⟨-, rfl⟩ := execLdVxK_next h
    · exact .setV rfl _
    · exact .pc rfl _
  | ldDTVx x => cases h; exact .delayTimer x
  | ldSTVx x => cases h; exact .soundTimer x
  | addIVx x => cases h; exact .index (.inr (.inl ⟨x, rfl⟩)) _
  | ldFVx x => cases h; exact .index (.inr (.inr ⟨x, rfl⟩)) _
  | ldBVx x =>
    obtain ⟨a, bs, hspan, rfl⟩ | ⟨r, rfl⟩ := execLdBVx_next h
    · exact .store (.inl ⟨x, rfl⟩) hspan
    · exact .fault _ r
  | storeRegs x =>
    obtain ⟨a, bs, hspan, rfl⟩ | ⟨r, rfl⟩ := execStoreRegs_next h
    · exact .store (.inr ⟨x, rfl⟩) hspan
    · exact .fault _ r
  | loadRegs x =>
    obtain ⟨bs, hbs, rfl⟩ | ⟨r, rfl⟩ := execLoadRegs_next h
    · exact .setFirstRegs hbs
    · exact .fault _ r

end Sys2Proof.Machine
end

section
/-! SUPPORT. What a step answers, and `pc` after an instruction by the table of spec/10_state.md R25. -/

namespace Sys2Proof.Machine

/-! ## What a step answers -/

/-- A step that answers a next state began on a running machine, and did one of three things (R110). -/
theorem cycle_next {run : Instr → State → Result} {s t : State} (h : cycle run s = .next t) :
    s.halted = none ∧
    ((s.fetch? = none ∧ t = s.halt (.fetchOutOfRange s.pc)) ∨
     (∃ w e, s.fetch? = some w ∧ decodeWord w = .rejected e ∧
        t = s.advance.halt (.unknownOpcode s.pc w)) ∨
     (∃ w i, s.fetch? = some w ∧ decodeWord w = .instr i ∧ run i s.advance = .next t)) := by
  cases hh : s.halted with
  | some r => rw [cycle_halted hh] at h; cases h
  | none =>
    refine ⟨rfl, ?_⟩
    obtain ⟨hpc, e⟩ | ⟨w, d, hf, hd, e⟩ | ⟨w, i, hf, hd, e⟩ := cycle_running run hh <;> rw [e] at h
    · cases h; exact .inl ⟨fetch?_eq_none.2 hpc, rfl⟩
    · cases h; exact .inr (.inl ⟨w, d, hf, hd, rfl⟩)
    · exact .inr (.inr ⟨w, i, hf, hd, h⟩)

/-- A step on a word that decodes is the execute phase of its instruction (R110, R111). -/
theorem cycle_instr (run : Instr → State → Result) {s : State} {w : Word} {i : Instr}
    (hh : s.halted = none) (hf : s.fetch? = some w) (hd : decodeWord w = .instr i) :
    cycle run s = run i s.advance := by
  simp [cycle, hh, hf, executeWord, hd]

/-- A step with nothing to fetch (R112). -/
theorem cycle_fetchFault (run : Instr → State → Result) {s : State} (hh : s.halted = none)
    (hf : s.fetch? = none) : cycle run s = .next (s.halt (.fetchOutOfRange s.pc)) := by
  simp [cycle, hh, hf, raise]

/-- A step on a word that is no instruction (spec/60_exceptions.md R255). -/
theorem cycle_illegal (run : Instr → State → Result) {s : State} {w : Word} {e : DecodeError}
    (hh : s.halted = none) (hf : s.fetch? = some w) (hd : decodeWord w = .rejected e) :
    cycle run s = .next (s.advance.halt (.unknownOpcode s.pc w)) := by
  simp [cycle, hh, hf, executeWord, hd, raise]

/-! ## `pc` -/

@[simp] theorem advance_sp (s : State) : s.advance.sp = s.sp := rfl
@[simp] theorem advance_getV (s : State) (r : RegIdx) : s.advance.getV r = s.getV r := rfl
@[simp] theorem advance_keyDown? (s : State) (n : Nat) : s.advance.keyDown? n = s.keyDown? n := rfl
@[simp] theorem advance_lowestKey? (s : State) :
    s.advance.lowestKey? = s.lowestKey? := rfl

/-- The fetch does not wrap `pc` (R26). -/
theorem toNat_advance_pc {s : State} (h : s.pc.toNat ≤ 0x0FFE) :
    s.advance.pc.toNat = s.pc.toNat + 2 := by
  rw [advance_pc]
  bv_omega

/-- A skip after the fetch does not wrap either (R26, R139). -/
theorem toNat_skipIf_advance_pc {s : State} (h : s.pc.toNat ≤ 0x0FFE) (c : Bool) :
    (s.advance.skipIf c).pc.toNat = if c then s.pc.toNat + 4 else s.pc.toNat + 2 := by
  rw [skipIf_eq, setPc_pc, advance_pc]
  cases c
  · exact toNat_advance_pc h
  · simp only [↓reduceIte]
    bv_omega

/-- The key a skip tests is the entry of `key` that the table of R25 reads. -/
theorem getD_key_of_keyDown? {s : State} {n : Nat} {down : Bool} (h : s.keyDown? n = some down) :
    s.key.toList.getD n false = down := by
  obtain ⟨hn, rfl⟩ := keyDown?_eq_some.1 h
  rw [List.getD_eq_getElem _ _ (by simpa using hn), Vector.getElem_toList]

/-- Some key is down exactly when there is a lowest one (R223). -/
theorem contains_key_true (s : State) : s.key.toList.contains true = s.lowestKey?.isSome := by
  rw [State.lowestKey?, List.findIdx?_isSome, ← List.any_beq']
  simp

/-- The return address RET pops is the entry of `stack` that the table of R25 reads. -/
theorem getD_stack_of_lt (s : State) {k : Nat} (h : k < 16) :
    s.stack.toList.getD k 0 = s.stack[k] := by
  rw [List.getD_eq_getElem _ _ (by simpa using h), Vector.getElem_toList]

/-- An instruction that is no row of the table of R25 leaves `pc` alone. -/
theorem Effect.pc_eq {i : Instr} {s t : State} (he : Effect s i t) (hi : writesPc i = false) :
    t.pc = s.pc := by
  cases he with
  | pc h => rw [hi] at h; cases h
  | push => cases hi
  | pop => cases hi
  | _ => rfl

/-- The value of the table of R25 is reached, or the instruction faulted with `pc` at `a + 2`. -/
def PcByTable (i : Instr) (s t : State) : Prop :=
  t.pc.toNat = if t.halted = none then pcAfter i s else s.pc.toNat + 2

/-- A row of R25 other than the first, reached without a fault. -/
theorem pcByTable_of_eq {i : Instr} {s t : State} (ht : t.halted = none)
    (h : t.pc.toNat = pcAfter i s) : PcByTable i s t := by
  rw [PcByTable, if_pos ht, h]

section fetched

variable {i : Instr} {s t : State} (hpc : s.pc.toNat ≤ 0x0FFE)
include hpc

/-- The row of R25 for a fault at execute. -/
theorem pcByTable_fault (r : FaultRecord) : PcByTable i s (s.advance.halt r) := by
  simpa [PcByTable] using toNat_advance_pc hpc

/-- The first row of R25. -/
theorem pcByTable_of_keeps (he : Effect s.advance i t) (hi : writesPc i = false)
    (ha : pcAfter i s = s.pc.toNat + 2) : PcByTable i s t := by
  rw [PcByTable, ha, ite_self, he.pc_eq hi, toNat_advance_pc hpc]

/-- The two rows of R25 for a skip. -/
theorem pcByTable_skipIf (hs : s.halted = none) {c : Bool}
    (ha : pcAfter i s = if c then s.pc.toNat + 4 else s.pc.toNat + 2) :
    PcByTable i s (s.advance.skipIf c) :=
  pcByTable_of_eq (by rw [skipIf_eq]; exact hs) (by rw [toNat_skipIf_advance_pc hpc, ha])

end fetched

/-- `pc` after an instruction's execute phase, by the table of R25. -/
theorem exec_pcByTable {i : Instr} {s t : State} (hpc : s.pc.toNat ≤ 0x0FFE) (hs : s.halted = none)
    (h : exec i s.advance = .next t) : PcByTable i s t := by
  cases i with
  | ret =>
    obtain ⟨hsp, rfl⟩ | ⟨r, rfl⟩ := execRet_next h
    · rw [advance_sp] at hsp
      exact pcByTable_of_eq hs (congrArg BitVec.toNat (getD_stack_of_lt s (by omega)).symm)
    · exact pcByTable_fault hpc r
  | jp nnn => cases h; exact pcByTable_of_eq hs (toNat_zextAddr nnn)
  | call nnn =>
    obtain ⟨hsp, rfl⟩ | ⟨r, rfl⟩ := execCall_next h
    · exact pcByTable_of_eq hs (toNat_zextAddr nnn)
    · exact pcByTable_fault hpc r
  | jpV0 nnn => cases h; exact pcByTable_of_eq hs (toNat_offsetTarget s nnn)
  | seImm x kk => cases h; exact pcByTable_skipIf hpc hs (by simp [pcAfter])
  | sneImm x kk => cases h; exact pcByTable_skipIf hpc hs (by simp [pcAfter])
  | seReg x y => cases h; exact pcByTable_skipIf hpc hs (by simp [pcAfter])
  | sneReg x y => cases h; exact pcByTable_skipIf hpc hs (by simp [pcAfter])
  | skp x =>
    obtain ⟨down, hk, rfl⟩ | ⟨r, rfl⟩ := execSkp_next h
    · rw [advance_keyDown?, advance_getV] at hk
      exact pcByTable_skipIf hpc hs (by rw [pcAfter, getD_key_of_keyDown? hk])
    · exact pcByTable_fault hpc r
  | sknp x =>
    obtain ⟨down, hk, rfl⟩ | ⟨r, rfl⟩ := execSknp_next h
    · rw [advance_keyDown?, advance_getV] at hk
      exact pcByTable_skipIf hpc hs (by rw [pcAfter, getD_key_of_keyDown? hk]; cases down <;> rfl)
    · exact pcByTable_fault hpc r
  | ldVxK x =>
    obtain ⟨k, hk, rfl⟩ | ⟨hk, rfl⟩ := execLdVxK_next h
    · refine pcByTable_of_eq hs ((toNat_advance_pc hpc).trans ?_)
      rw [pcAfter, contains_key_true, ← advance_lowestKey?, hk]
      rfl
    · refine pcByTable_of_eq hs ?_
      rw [pcAfter, contains_key_true, ← advance_lowestKey?, hk]
      simp
  | _ => exact pcByTable_of_keeps hpc (exec_effect h) rfl rfl

end Sys2Proof.Machine
end

section
/-! SUPPORT. The invariant of spec/10_state.md R38 kept by every instruction, step and event (O4, O5), and `pc`
after every step (O18). -/

namespace Sys2Proof.Machine

/-! ## The invariant, element by element -/

/-- The part of the invariant that is about the return stack (R27, R28). -/
def StackInv (s : State) : Prop :=
  s.sp.toNat ≤ 16 ∧ ∀ k : Fin 16, k.val < s.sp.toNat → s.stack[k].toNat ≤ 0x1000

/-- An instruction keeps memory canonical: a store is to addresses that exist. -/
theorem Effect.mem_wf {i : Instr} {s t : State} (he : Effect s i t) (h : s.mem.wf) : t.mem.wf := by
  cases he with
  | store _ hspan => exact wf_writeSpan h hspan
  | _ => exact h

/-- An instruction keeps the stack: a push stores the advanced `pc`, a pop holds one entry less. -/
theorem Effect.stackInv {i : Instr} {s t : State} (he : Effect s i t) (h : StackInv s)
    (hpc : s.pc.toNat ≤ 0x1000) : StackInv t := by
  obtain ⟨hsp, hstack⟩ := h
  cases he with
  | push nnn hlt =>
    have e : (s.sp + 1).toNat = s.sp.toNat + 1 := by bv_omega
    refine ⟨by rw [setPc_sp, setSp_sp, e]; exact hlt, fun k hk => ?_⟩
    rw [setPc_sp, setSp_sp, e] at hk
    simp only [setPc_stack, setSp_stack, setStack_stack, Fin.getElem_fin, Vector.getElem_set]
    split
    · exact hpc
    · exact hstack k (by omega)
  | pop hpos =>
    have e : (s.sp - 1).toNat = s.sp.toNat - 1 := by bv_omega
    refine ⟨by rw [setPc_sp, setSp_sp, e]; omega, fun k hk => hstack k ?_⟩
    rw [setPc_sp, setSp_sp, e] at hk
    omega
  | _ => exact ⟨hsp, hstack⟩

/-- Every value of the table of R25 is at most 0x10FE (R26). -/
theorem pcAfter_le {i : Instr} {s : State} (hpc : s.pc.toNat ≤ 0x0FFE) (h : StackInv s)
    (hret : i = .ret → 0 < s.sp.toNat) : pcAfter i s ≤ 0x10FE := by
  cases i with
  | jp nnn | call nnn => have := nnn.isLt; simp only [pcAfter]; omega
  | jpV0 nnn =>
    have := nnn.isLt
    have := (s.getV 0).isLt
    simp only [pcAfter]
    omega
  | ret =>
    obtain ⟨hsp, hstack⟩ := h
    have hpos := hret rfl
    have := hstack ⟨s.sp.toNat - 1, by omega⟩ (by simp only; omega)
    rw [pcAfter, getD_stack_of_lt s (by omega)]
    exact this.trans (by decide)
  | seImm _ _ | sneImm _ _ | seReg _ _ | sneReg _ _ | skp _ | sknp _ | ldVxK _ =>
    simp only [pcAfter]
    split <;> omega
  | _ => simp only [pcAfter]; omega

/-- A RET that ends in no fault held a return address (R131). -/
theorem sp_pos_of_exec_ret {s t : State} (h : exec .ret s = .next t) (ht : t.halted = none) :
    0 < s.sp.toNat := by
  obtain ⟨hsp, -⟩ | ⟨r, rfl⟩ := execRet_next h
  · exact hsp.1
  · cases ht

/-- `pc` after an instruction is in the range of R26. -/
theorem exec_pc_le {i : Instr} {s t : State} (hpc : s.pc.toNat ≤ 0x0FFE) (hs : s.halted = none)
    (hst : StackInv s) (h : exec i s.advance = .next t) : t.pc.toNat ≤ 0x10FE := by
  rw [exec_pcByTable hpc hs h]
  split
  · next ht => exact pcAfter_le hpc hst fun e => sp_pos_of_exec_ret (s := s.advance) (e ▸ h) ht
  · omega

/-! ## Instructions and steps -/

/-- A way of running instructions keeps the invariant, from the state the fetch leaves. -/
def KeepsInv (run : Instr → State → Result) : Prop :=
  ∀ (i : Instr) (s t : State), s.pc.toNat ≤ 0x0FFE → s.halted = none → s.Inv →
    run i s.advance = .next t → t.Inv

theorem exec_keepsInv : KeepsInv exec := by
  intro i s t hpc hs ⟨hmem, hsp, _, hstack⟩ h
  have he := exec_effect h
  have hle : s.advance.pc.toNat ≤ 0x1000 := by rw [toNat_advance_pc hpc]; omega
  obtain ⟨hsp', hstack'⟩ := he.stackInv ⟨hsp, hstack⟩ hle
  exact ⟨he.mem_wf hmem, hsp', exec_pc_le hpc hs ⟨hsp, hstack⟩ h, hstack'⟩

/-- An instruction other than RND ignores the step's byte (spec/42_alu.md R161). -/
theorem execDrawing_eq_exec {i : Instr} (hi : ∀ x kk, i ≠ .rnd x kk) (byte : Byte) (s : State) :
    execDrawing byte i s = exec i s := by
  cases i with
  | rnd x kk => exact absurd rfl (hi x kk)
  | _ => rfl

/-- The execute phase with a byte given is RND with that byte, or the instruction's own (R161). -/
theorem execDrawing_cases (byte : Byte) (i : Instr) (s : State) :
    (∃ x kk, i = .rnd x kk ∧ execDrawing byte i s = .next (s.setV x (byte &&& kk))) ∨
      ((∀ x kk, i ≠ .rnd x kk) ∧ execDrawing byte i s = exec i s) := by
  by_cases h : ∃ x kk, i = .rnd x kk
  · obtain ⟨x, kk, rfl⟩ := h
    exact .inl ⟨x, kk, rfl, rfl⟩
  · have hi : ∀ x kk, i ≠ .rnd x kk := fun x kk e => h ⟨x, kk, e⟩
    exact .inr ⟨hi, execDrawing_eq_exec hi byte s⟩

theorem execDrawing_keepsInv (byte : Byte) : KeepsInv (execDrawing byte) := by
  intro i s t hpc hs hinv h
  obtain ⟨x, kk, -, e⟩ | ⟨-, e⟩ := execDrawing_cases byte i s.advance
  · rw [e] at h
    cases h
    obtain ⟨hmem, hsp, -, hstack⟩ := hinv
    refine ⟨hmem, hsp, ?_, hstack⟩
    rw [setV_pc, toNat_advance_pc hpc]
    omega
  · exact exec_keepsInv i s t hpc hs hinv (e ▸ h)

/-- A step keeps the invariant if its execute phase does. -/
theorem cycle_keepsInv {run : Instr → State → Result} (hrun : KeepsInv run) {s t : State}
    (hinv : s.Inv) (h : cycle run s = .next t) : t.Inv := by
  obtain ⟨hs, ⟨-, rfl⟩ | ⟨w, e, hf, -, rfl⟩ | ⟨w, i, hf, -, hi⟩⟩ := cycle_next h
  · exact hinv
  · obtain ⟨hmem, hsp, -, hstack⟩ := hinv
    refine ⟨hmem, hsp, ?_, hstack⟩
    rw [halt_pc, toNat_advance_pc (fetch?_eq_some.1 hf).1]
    have := (fetch?_eq_some.1 hf).1
    omega
  · exact hrun i s t (fetch?_eq_some.1 hf).1 hs hinv hi

/-! ## Events and runs -/

/-- LOAD keeps the invariant: a program that fits is stored at addresses that exist. -/
theorem load_keepsInv {bytes : List Byte} {s t : State} (hinv : s.Inv)
    (h : load bytes s = .loaded t) : t.Inv := by
  obtain ⟨hfit, rfl⟩ := load_eq_loaded.1 h
  obtain ⟨hmem, hrest⟩ := hinv
  exact ⟨wf_writeSpan hmem hfit, hrest⟩

/-- An event that moves keeps the invariant of the machine. -/
theorem act_keepsInv {p q : Session} {e : Event} {r : Response} (hinv : p.machine.Inv)
    (h : p.act e = .moved q r) : q.machine.Inv := by
  obtain ⟨bytes, t, -, -, hl, rfl, -⟩ | ⟨_, -, -, -, rfl, -⟩ | ⟨b, t, -, -, hs, rfl, -⟩ |
    ⟨-, -, rfl, -⟩ | ⟨k, b, -, -, rfl, -⟩ | ⟨-, -, rfl, -⟩ := act_moved h
  · exact load_keepsInv hinv hl
  · exact hinv
  · exact cycle_keepsInv (execDrawing_keepsInv b) hinv hs
  · exact hinv
  · exact hinv
  · exact hinv

/-- A run goes on exactly as long as its events move (spec/70_reset_and_hazards.md R293). -/
theorem run_cons_eq_some {p q : Session} {e : Event} {es : List Event} :
    p.run (e :: es) = some q ↔ ∃ p' r, p.act e = .moved p' r ∧ p'.run es = some q := by
  cases h : p.act e <;> simp [Session.run, h]

/-- What every event that moves keeps, every run keeps. -/
theorem run_induction {P : Session → Prop}
    (hact : ∀ {p q : Session} {e : Event} {r : Response}, P p → p.act e = .moved q r → P q)
    {p q : Session} {es : List Event} (hp : P p) (h : p.run es = some q) : P q := by
  induction es generalizing p with
  | nil => cases h; exact hp
  | cons e es ih =>
    obtain ⟨p', r, hm, hr⟩ := run_cons_eq_some.1 h
    exact ih (hact hp hm) hr

/-! ## The statements -/

/-- Settles O4: the invariant is kept element by element, `pc` by the table of R25. -/
theorem stepKeepsInv : Obligations.StepKeepsInv :=
  fun _ _ hinv h => cycle_keepsInv exec_keepsInv hinv h

/-- Settles O5, by induction on the events. -/
theorem runOfEventsKeepsInv : Obligations.RunOfEventsKeepsInv :=
  fun _ _ _ hinv h => run_induction (P := fun p => p.machine.Inv) act_keepsInv hinv h

/-- Settles O18: the table of R25, instruction by instruction. -/
theorem pcAfterEveryStep : Obligations.PcAfterEveryStep := by
  refine ⟨fun s t w i hf hd h => ?_, fun s t hpc h => ?_⟩
  · obtain ⟨hs, -⟩ := cycle_next h
    rw [step, cycle_instr exec hs hf hd] at h
    exact exec_pcByTable (fetch?_eq_some.1 hf).1 hs h
  · have hn := fetch?_eq_none.2 hpc
    obtain ⟨-, ⟨-, rfl⟩ | ⟨w, e, hf, -⟩ | ⟨w, i, hf, -⟩⟩ := cycle_next h
    · rfl
    · cases hn.symm.trans hf
    · cases hn.symm.trans hf

end Sys2Proof.Machine
end

section
/-! SUPPORT. Which instructions write each element, what no instruction reads, and the random byte of RND. -/

namespace Sys2Proof.Machine

/-! ## Which instructions write each element -/

/-- Settles O50: each way an instruction can end writes the elements named and keeps the others. -/
theorem onlyTheNamedInstructionsWriteEachElement :
    Obligations.OnlyTheNamedInstructionsWriteEachElement := by
  intro i s t h
  cases exec_effect h with
  | store hi hspan => simp [hi]
  | index hi w => simp [hi]
  | _ => simp

/-- Settles O51: an instruction writes its registers as `writesReg` says. -/
theorem registersChangeOnlyAsDestinationOrFlag :
    Obligations.RegistersChangeOnlyAsDestinationOrFlag := by
  intro i s t r h hr
  cases exec_effect h with
  | regs hi => exact hi r hr
  | draw x kk =>
    by_cases hx : r = x
    · exact .inl (congrArg some hx.symm)
    · exact absurd (by simp [hx]) hr
  | sprite x y n f b =>
    by_cases hx : r = regF
    · exact .inr (.inr ⟨hx, rfl⟩)
    · exact absurd (by simp [hx]) hr
  | _ => exact absurd rfl hr

/-- No instruction but RND in `step` counts a draw (log entry 3). -/
theorem Effect.draws_eq {i : Instr} {s t : State} (he : Effect s i t)
    (hi : ∀ x kk, i ≠ .rnd x kk) : t.draws = s.draws := by
  cases he with
  | draw x kk => exact absurd rfl (hi x kk)
  | _ => rfl

/-- STEP with its byte given counts no draw. -/
theorem stepWith_draws {byte : Byte} {s t : State} (h : stepWith byte s = .next t) :
    t.draws = s.draws := by
  obtain ⟨-, ⟨-, rfl⟩ | ⟨w, e, -, -, rfl⟩ | ⟨w, i, -, -, hi⟩⟩ := cycle_next h
  · rfl
  · rfl
  · obtain ⟨x, kk, -, e⟩ | ⟨hn, e⟩ := execDrawing_cases byte i s.advance
    · rw [e] at hi
      cases hi
      rfl
    · exact (exec_effect (e.symm.trans hi)).draws_eq hn

/-! ## What no instruction reads -/

/-- `ST` and the model's count of draws changed. No instruction reads either (spec/10_state.md R30; log
entries 3 and 16). -/
def State.mapUnread (f : Byte → Byte) (g : Nat → Nat) (s : State) : State :=
  { s with st := f s.st, draws := g s.draws }

/-- An answer with its next state changed. -/
def mapNext (f : State → State) : Result → Result
  | .next t => .next (f t)
  | .fault r => .fault r
  | .refused r => .refused r

section mapUnread

variable (f : Byte → Byte) (g : Nat → Nat) (s : State)

@[simp] theorem mapUnread_getV (r : RegIdx) : (s.mapUnread f g).getV r = s.getV r := rfl
@[simp] theorem mapUnread_load? (a n : Nat) : (s.mapUnread f g).load? a n = s.load? a n := rfl
@[simp] theorem mapUnread_effAddr (k : Nat) : (s.mapUnread f g).effAddr k = s.effAddr k := rfl
@[simp] theorem mapUnread_firstRegs (x : RegIdx) :
    (s.mapUnread f g).firstRegs x = s.firstRegs x := rfl
@[simp] theorem mapUnread_keyDown? (n : Nat) : (s.mapUnread f g).keyDown? n = s.keyDown? n := rfl
@[simp] theorem mapUnread_lowestKey? : (s.mapUnread f g).lowestKey? = s.lowestKey? := rfl
@[simp] theorem mapUnread_sp : (s.mapUnread f g).sp = s.sp := rfl
@[simp] theorem mapUnread_pc : (s.mapUnread f g).pc = s.pc := rfl

theorem mapUnread_store? (a : Nat) (bs : List Byte) :
    (s.mapUnread f g).store? a bs = (s.store? a bs).map (State.mapUnread f g) := by
  unfold State.store?
  split <;> rfl

theorem mapUnread_push? (w : Word) :
    (s.mapUnread f g).push? w = (s.push? w).map (State.mapUnread f g) := by
  unfold State.push?
  rw [mapUnread_sp]
  split <;> rfl

theorem mapUnread_pop? :
    (s.mapUnread f g).pop? = s.pop?.map (fun p => (p.1, p.2.mapUnread f g)) := by
  unfold State.pop?
  rw [mapUnread_sp]
  split
  · rfl
  · rw [Option.map_map]; rfl

theorem mapUnread_skipIf (c : Bool) :
    (s.mapUnread f g).skipIf c = (s.skipIf c).mapUnread f g := by
  cases c <;> rfl

theorem stackFault_mapUnread (bad : Byte) (r : FaultRecord) :
    stackFault bad r (s.mapUnread f g) = mapNext (State.mapUnread f g) (stackFault bad r s) := by
  unfold stackFault
  rw [mapUnread_sp]
  split <;> rfl

end mapUnread

/-- The answer of an instruction is the same whatever `ST` and the count of draws are, but for these two
themselves. LD ST, which writes `ST`, is in it where `ST` is left alone. -/
theorem execDrawing_mapUnread {f : Byte → Byte} {g : Nat → Nat} {i : Instr}
    (hi : ∀ x, i = .ldSTVx x → f = id) (byte : Byte) (s : State) :
    execDrawing byte i (s.mapUnread f g) = mapNext (State.mapUnread f g) (execDrawing byte i s) := by
  cases i with
  | ldSTVx x => rw [hi x rfl]; rfl
  | ret =>
    simp only [execDrawing, exec, execRet, mapUnread_pop?]
    cases s.pop? with
    | some p => rfl
    | none => exact stackFault_mapUnread f g s _ _
  | call nnn =>
    simp only [execDrawing, exec, execCall, mapUnread_pc, mapUnread_push?]
    cases s.push? s.pc with
    | some u => rfl
    | none => exact stackFault_mapUnread f g s _ _
  | drw x y n =>
    simp only [execDrawing, exec, execDrw, mapUnread_load?, mapUnread_effAddr]
    cases s.load? (s.effAddr 0) n.toNat <;> rfl
  | skp x =>
    simp only [execDrawing, exec, execSkp, mapUnread_getV, mapUnread_keyDown?, mapUnread_skipIf]
    cases s.keyDown? (s.getV x).toNat <;> rfl
  | sknp x =>
    simp only [execDrawing, exec, execSknp, mapUnread_getV, mapUnread_keyDown?, mapUnread_skipIf]
    cases s.keyDown? (s.getV x).toNat <;> rfl
  | ldVxK x =>
    simp only [execDrawing, exec, execLdVxK, mapUnread_lowestKey?]
    cases s.lowestKey? <;> rfl
  | ldBVx x =>
    simp only [execDrawing, exec, execLdBVx, mapUnread_getV, mapUnread_effAddr, mapUnread_store?]
    cases s.store? (s.effAddr 0) (bcdDigits (s.getV x)) <;> rfl
  | storeRegs x =>
    simp only [execDrawing, exec, execStoreRegs, mapUnread_firstRegs, mapUnread_effAddr,
      mapUnread_store?]
    cases s.store? (s.effAddr 0) (s.firstRegs x) <;> rfl
  | loadRegs x =>
    simp only [execDrawing, exec, execLoadRegs, mapUnread_load?, mapUnread_effAddr]
    cases s.load? (s.effAddr 0) (x.val + 1) <;> rfl
  | seImm x kk => exact congrArg Host.Outcome.next (mapUnread_skipIf f g s _)
  | sneImm x kk => exact congrArg Host.Outcome.next (mapUnread_skipIf f g s _)
  | seReg x y => exact congrArg Host.Outcome.next (mapUnread_skipIf f g s _)
  | sneReg x y => exact congrArg Host.Outcome.next (mapUnread_skipIf f g s _)
  | _ => rfl

/-- A step answers the same whatever `ST` and the count of draws are, where its instruction does. -/
theorem stepWith_mapUnread {f : Byte → Byte} {g : Nat → Nat} {s : State} (byte : Byte)
    (h : ∀ w x, s.fetch? = some w → decodeWord w = .instr (.ldSTVx x) → f = id) :
    stepWith byte (s.mapUnread f g) = mapNext (State.mapUnread f g) (stepWith byte s) := by
  unfold stepWith
  cases hh : s.halted with
  | some r => rw [cycle_halted hh, cycle_halted (s := s.mapUnread f g) hh]; rfl
  | none =>
    cases hf : s.fetch? with
    | none => rw [cycle_fetchFault _ hh hf, cycle_fetchFault (s := s.mapUnread f g) _ hh hf]; rfl
    | some w =>
      cases hd : decodeWord w with
      | rejected e =>
        rw [cycle_illegal _ hh hf hd, cycle_illegal (s := s.mapUnread f g) _ hh hf hd]; rfl
      | instr i =>
        rw [cycle_instr _ hh hf hd, cycle_instr (s := s.mapUnread f g) _ hh hf hd]
        exact execDrawing_mapUnread (fun x e => h w x hf (hd.trans (congrArg _ e))) byte s.advance

/-- What is seen of an answer on the Machine State does not depend on the count of draws. -/
theorem onMachine_mapNext_draws (g : Nat → Nat) (r : Result) :
    onMachine (mapNext (State.mapUnread id g) r) = onMachine r := by
  cases r <;> rfl

/-- Settles O55: no event writes the count, and STEP with its byte given commutes with any change of it. -/
theorem noEventReadsOrWritesTheCountOfDraws :
    Obligations.NoEventReadsOrWritesTheCountOfDraws := by
  refine ⟨fun p q e r h => ?_, fun s b n => ?_⟩
  · obtain ⟨bytes, t, -, -, hl, rfl, -⟩ | ⟨_, -, -, -, rfl, -⟩ | ⟨b, t, -, -, hs, rfl, -⟩ |
      ⟨-, -, rfl, -⟩ | ⟨k, b, -, -, rfl, -⟩ | ⟨-, -, rfl, -⟩ := act_moved h
    · obtain ⟨-, rfl⟩ := load_eq_loaded.1 hl
      rfl
    · rfl
    · exact stepWith_draws hs
    · rfl
    · rfl
    · rfl
  · have e : stepWith b (s.mapUnread id fun _ => n) = _ := stepWith_mapUnread b fun _ _ _ _ => rfl
    exact (congrArg onMachine e).trans (onMachine_mapNext_draws _ _)

/-! ## RND in `step` -/

/-- The word of RND decodes to it (spec/30_encoding.md R85). -/
theorem decodeWord_encode_rnd (x : RegIdx) (kk : Byte) :
    decodeWord (encode (.rnd x kk)) = .instr (.rnd x kk) := by
  have hs : opRows[22].selects (encode (.rnd x kk)) = true :=
    beq_iff_eq.2 ((Laws.mask_encI 0xC x kk).trans (by decide))
  refine (decodeWord_of_selects (List.getElem_mem _) hs).trans (congrArg Decoded.instr ?_)
  change Instr.rnd (fieldX (encI 0xC x kk)) (fieldKK (encI 0xC x kk)) = _
  rw [fieldX_encI, fieldKK_encI]

/-- Only its own word decodes to RND: the opcode is fixed by the row, the rest by the fields (R82, R86). -/
theorem eq_encode_of_decodeWord_rnd {w : Word} {x : RegIdx} {kk : Byte}
    (h : decodeWord w = .instr (.rnd x kk)) : w = encode (.rnd x kk) := by
  unfold decodeWord at h
  split at h
  · next r hr =>
    have row : ∀ r ∈ opRows, r.build w = .rnd x kk →
        r.mask = 0xF000 ∧ r.code = 0xC000 ∧ fieldX w = x ∧ fieldKK w = kk := by
      simp [opRows, opRowsPlain, opRowsRegister, opRowsMixed, opRowsF]
    obtain ⟨hm, hc, rfl, rfl⟩ := row r (List.mem_of_find?_eq_some hr) (Decoded.instr.inj h)
    have hsel : w &&& 0xF000 = 0xC000 := by
      have := List.find?_some hr
      rwa [OpRow.selects, beq_iff_eq, hm, hc] at this
    have hop : w.toNat / 4096 = 0xC := by
      have hbits : (w &&& 0xF000) >>> 12 = w >>> 12 := by
        ext k hk
        interval_cases k <;> simp
      rw [hsel] at hbits
      simpa [Nat.shiftRight_eq_div_pow] using (congrArg BitVec.toNat hbits).symm
    apply BitVec.eq_of_toNat_eq
    rw [encode, toNat_encI, val_fieldX, toNat_fieldKK, show (0xC : Nibble).toNat = 12 from rfl]
    omega
  · cases h

/-- RND in `step`: the free byte of the state in its execute phase, and a draw counted (log entry 3). -/
theorem step_rnd {s : State} {x : RegIdx} {kk : Byte} (hh : s.halted = none)
    (hf : s.fetch? = some (encode (.rnd x kk))) :
    step s = .next (s.advance.countDraw.setV x (Config.rnd s.advance &&& kk)) :=
  cycle_instr exec hh hf (decodeWord_encode_rnd x kk)

/-- On any other word `step` is the event STEP, whatever the byte (spec/42_alu.md R161). -/
theorem step_eq_stepWith {s : State} (h : ∀ x kk, s.fetch? ≠ some (encode (.rnd x kk)))
    (byte : Byte) : step s = stepWith byte s := by
  unfold step stepWith
  cases hh : s.halted with
  | some r => rw [cycle_halted hh, cycle_halted hh]
  | none =>
    cases hf : s.fetch? with
    | none => rw [cycle_fetchFault _ hh hf, cycle_fetchFault _ hh hf]
    | some w =>
      cases hd : decodeWord w with
      | rejected e => rw [cycle_illegal _ hh hf hd, cycle_illegal _ hh hf hd]
      | instr i =>
        rw [cycle_instr _ hh hf hd, cycle_instr _ hh hf hd]
        refine (execDrawing_eq_exec (fun x kk e => h x kk ?_) byte s.advance).symm
        rw [hf, eq_encode_of_decodeWord_rnd (hd.trans (congrArg _ e))]

/-- Settles O56: RND counts its draw, and every other step is a STEP, which counts none. -/
theorem eachRndStepTakesItsOwnFreeByte : Obligations.EachRndStepTakesItsOwnFreeByte := by
  refine fun s t h => ⟨fun x kk hf => ?_, fun hf => ?_⟩
  · obtain ⟨hh, -⟩ := cycle_next h
    cases (step_rnd hh hf).symm.trans h
    refine ⟨rfl, fun k => ?_⟩
    rw [setV_getV, if_pos rfl, BitVec.getLsbD_and]
    rfl
  · exact stepWith_draws ((step_eq_stepWith hf 0).symm.trans h)

/-! ## The sound timer -/

/-- STEP answers the same next state but for `ST`, which stays as given or is written by LD ST (R30). -/
theorem stepWith_setST {byte b : Byte} {s t : State} (h : stepWith byte s = .next t) :
    ∃ c, stepWith byte (s.setST b) = .next (t.setST c) := by
  by_cases hST : ∃ w x, s.fetch? = some w ∧ decodeWord w = .instr (.ldSTVx x)
  · obtain ⟨w, x, hf, hd⟩ := hST
    obtain ⟨hh, -⟩ := cycle_next h
    cases (cycle_instr (execDrawing byte) hh hf hd).symm.trans h
    exact ⟨s.getV x, cycle_instr (s := s.setST b) _ hh hf hd⟩
  · have e : stepWith byte (s.mapUnread (fun _ => b) id) = _ :=
      stepWith_mapUnread byte fun w x hf hd => absurd ⟨w, x, hf, hd⟩ hST
    rw [h] at e
    exact ⟨b, e⟩

/-- Settles O52: `step` is a STEP, but for RND, whose two bytes only the registers see. -/
theorem soundTimerDoesNotInterfere : Obligations.SoundTimerDoesNotInterfere := by
  refine ⟨fun s t rnd b h => stepWith_setST h, fun s t b h => ?_⟩
  by_cases hR : ∃ x kk, s.fetch? = some (encode (.rnd x kk))
  · obtain ⟨x, kk, hf⟩ := hR
    obtain ⟨hh, -⟩ := cycle_next h
    cases (step_rnd hh hf).symm.trans h
    exact ⟨b, _, step_rnd (s := s.setST b) hh hf, rfl, fun hn => absurd hf (hn x kk)⟩
  · have hn : ∀ x kk, s.fetch? ≠ some (encode (.rnd x kk)) := fun x kk e => hR ⟨x, kk, e⟩
    obtain ⟨c, hc⟩ := stepWith_setST (b := b) ((step_eq_stepWith hn 0).symm.trans h)
    exact ⟨c, _, (step_eq_stepWith (s := s.setST b) hn 0).trans hc, rfl, fun _ => rfl⟩

end Sys2Proof.Machine
end

section
/-! SUPPORT. The machine after CREATE (spec/10_state.md R37), and the stop of CALL and RET for `sp` above 16. -/

namespace Sys2Proof.Machine

/-! ## The machine after CREATE -/

/-- Memory after CREATE: the `FONT` bytes over what every address reads as unlisted (R37). -/
theorem byteAt_createdState (c : Config) (a : Nat) :
    (createdState c).byteAt a =
      if 0x50 ≤ a then c.font.getD (a - 0x50) (resetByte a) else resetByte a :=
  read_writeSpan [] fontBase c.font a

/-- Outside the glyph region an unlisted address reads as 0. -/
theorem resetByte_eq_zero {a : Nat} (h : a < 0x50 ∨ 0xA0 ≤ a) : resetByte a = 0 := by
  rw [resetByte, if_neg]
  simp only [fontBase, fontLen]
  omega

/-- A glyph address reads as its byte of the default `FONT` (spec/20_memory.md R58). -/
theorem resetByte_font {k : Nat} (h : k < defaultFont.length) :
    resetByte (0x50 + k) = defaultFont[k] := by
  have hk : k < 80 := h
  rw [resetByte, if_pos (by simp only [fontBase, fontLen]; omega), fontBase,
    Nat.add_sub_cancel_left, List.getD_eq_getElem _ _ h]

/-- No pixel of the cleared screen is set (spec/44_display.md R200). -/
theorem pixel_clear (p : Nat) : Framebuffer.clear.pixel p = false := by
  rw [Framebuffer.pixel, Framebuffer.row, Framebuffer.clear, Vector.getElem?_replicate]
  split <;> exact BitVec.getLsbD_zero

/-- Parameters that are allowed make CREATE answer. -/
theorem create_of_wellFormed {c : Config} (h : c.wellFormed = true) :
    create c = some (createdState c) := if_pos h

/-- An allowed `FONT` is 80 bytes, an allowed `PC_RESET` at most 0x0FFE (R290, R292). -/
theorem wellFormed_iff {c : Config} :
    c.wellFormed = true ↔ c.font.length = 80 ∧ c.pcReset.toNat ≤ 0x0FFE := by
  simp [Config.wellFormed, Config.fontOk, Config.pcResetOk, fontLen]

/-- Settles O1: the write of `FONT` read back, and the reset values. -/
theorem valuesAfterCreate : Obligations.ValuesAfterCreate := by
  intro c hc
  obtain ⟨hfont, -⟩ := wellFormed_iff.1 hc
  refine ⟨createdState c, create_of_wellFormed hc, fun a ha => ?_, fun k hk => ?_,
    fun a ha _ => ?_, fun r => ?_, rfl, rfl, fun k => ?_, rfl, rfl, rfl, fun k => ?_,
    fun p _ => ?_, rfl⟩
  · rw [byteAt_createdState, if_neg (by omega), resetByte_eq_zero (.inl ha)]
  · rw [byteAt_createdState, if_pos (by omega), Nat.add_sub_cancel_left, List.getD_eq_getElem _ _ hk]
  · rw [byteAt_createdState, if_pos (by omega), List.getD_eq_default _ _ (by omega),
      resetByte_eq_zero (.inr ha)]
  · exact Vector.getElem_replicate _
  · exact Vector.getElem_replicate _
  · exact Vector.getElem_replicate _
  · exact pixel_clear p

/-- Writing to every address what it reads as unlisted lists nothing: the canonical form (log entry 20). -/
theorem writeSpan_nil_of_resetByte {bs : List Byte} {a : Nat}
    (h : ∀ k (hk : k < bs.length), bs[k] = resetByte (a + k)) : Memory.writeSpan [] a bs = [] := by
  induction bs generalizing a with
  | nil => rfl
  | cons b bs ih =>
    have hb : b = resetByte a := h 0 (Nat.zero_lt_succ _)
    rw [Memory.writeSpan, Memory.write, if_pos hb]
    refine ih fun k hk => ?_
    rw [Nat.add_assoc, Nat.add_comm 1 k]
    exact h (k + 1) (Nat.succ_lt_succ hk)

/-- The default `FONT` leaves no cell, so the default machine is the reset state. -/
theorem createdState_standard : createdState Config.standard = State.reset := by
  have hmem : Memory.writeSpan [] fontBase Config.standard.font = [] :=
    writeSpan_nil_of_resetByte fun _ hk => (resetByte_font hk).symm
  rw [createdState, hmem]
  rfl

/-- Settles O2: the default `FONT` is what the glyph region reads as unlisted. -/
theorem resetIsCreateWithTheDefaults : Obligations.ResetIsCreateWithTheDefaults := by
  refine ⟨?_, rfl, fun _ _ => rfl⟩
  rw [create_of_wellFormed (by decide), createdState_standard]

/-- The machine after CREATE has the invariant (spec/10_state.md R38). -/
theorem createdState_inv {c : Config} (hc : c.wellFormed = true) : (createdState c).Inv := by
  obtain ⟨hfont, hpc⟩ := wellFormed_iff.1 hc
  have hwf : Memory.wf [] := ⟨.nil, fun _ h => absurd h List.not_mem_nil⟩
  refine ⟨wf_writeSpan hwf ?_, Nat.zero_le _, hpc.trans (by decide),
    fun _ hk => absurd hk (Nat.not_lt_zero _)⟩
  rw [hfont]
  decide

/-- Settles O3: the glyph bytes are stored at addresses that exist, the stack is empty. -/
theorem invHoldsAfterCreate : Obligations.InvHoldsAfterCreate :=
  ⟨fun c hc => ⟨createdState c, create_of_wellFormed hc, createdState_inv hc⟩,
    createdState_standard ▸ createdState_inv (by decide)⟩

/-! ## CALL and RET outside the stack's range -/

/-- A stack fault is the model's own stop where `sp` is not the named fault's value (log entry 17). -/
theorem stackFault_of_ne {bad : Byte} {s : State} (h : s.sp ≠ bad) (r : FaultRecord) :
    stackFault bad r s = .fault (.stackPointerRange s.sp) := if_neg h

/-- Settles O24: neither a push nor a pop answers, and `sp` is the value of neither fault. -/
theorem stackPointerAboveSixteenStops : Obligations.StackPointerAboveSixteenStops := by
  intro s nnn h
  have h16 : s.sp ≠ 16 := fun e => absurd (e ▸ h) (by decide)
  have h0 : s.sp ≠ 0 := fun e => absurd (e ▸ h) (by decide)
  constructor
  · rw [exec, execCall, push?_eq_none.2 h.le]
    exact stackFault_of_ne h16 _
  · rw [exec, execRet, pop?_eq_none.2 (.inr h)]
    exact stackFault_of_ne h0 _

end Sys2Proof.Machine
end

section
/-! SUPPORT. Memory as data and as contents (spec/20_memory.md): the canonical form, a store read back by an observer
and by the fetch, LOAD, and the host's duties. -/

namespace Sys2Proof.Machine

/-! ## Memory in canonical form is its contents -/

/-- A byte that differs from what its address reads as unlisted is listed. -/
theorem mem_of_read_ne_resetByte {m : Memory} {a : Nat} (h : m.read a ≠ resetByte a) :
    (a, m.read a) ∈ m := by
  induction m with
  | nil => exact absurd rfl h
  | cons c m ih =>
    obtain ⟨k, b⟩ := c
    rw [Memory.read] at h ⊢
    split at h
    · next hk => simp [hk]
    · next hk => simpa [hk] using .inr (ih h)

/-- With rising addresses a listed cell is what its address reads as. -/
theorem read_of_mem {m : Memory} (h : m.Pairwise (fun c d => c.1 < d.1)) {c : Host.Cell}
    (hc : c ∈ m) : m.read c.1 = c.2 := by
  induction h with
  | nil => cases hc
  | cons hlt _ ih =>
    rw [Memory.read]
    rcases List.mem_cons.1 hc with rfl | hc
    · exact if_pos rfl
    · rw [if_neg (hlt c hc).ne, ih hc]

/-- A memory in canonical form lists only cells of every memory that reads like it. -/
theorem subset_of_read_eq {m n : Memory} (hm : m.wf) (h : ∀ a, a < 4096 → m.read a = n.read a) :
    m ⊆ n := by
  intro c hc
  obtain ⟨hrising, hcells⟩ := hm
  obtain ⟨ha, hne⟩ := hcells c hc
  have hread : n.read c.1 = c.2 := (h c.1 ha).symm.trans (read_of_mem hrising hc)
  have hlisted := mem_of_read_ne_resetByte (hread ▸ hne : n.read c.1 ≠ resetByte c.1)
  rwa [hread] at hlisted

/-- Settles O6: both memories list the same cells, in the order of the addresses. -/
theorem canonicalMemoryIsExtensional : Obligations.CanonicalMemoryIsExtensional := by
  intro m n hm hn h
  have hmn : m ⊆ n := subset_of_read_eq hm h
  have hnm : n ⊆ m := subset_of_read_eq hn fun a ha => (h a ha).symm
  have hirrefl : Std.Irrefl (fun c d : Host.Cell => c.1 < d.1) := ⟨fun c => lt_irrefl c.1⟩
  have hasymm : Std.Antisymm (fun c d : Host.Cell => c.1 < d.1) :=
    ⟨fun _ _ hcd hdc => absurd hcd hdc.asymm⟩
  exact List.Subset.antisymm_of_pairwise hm.1 hn.1 hmn hnm

/-! ## A store and what reads it -/

/-- A stored byte reads back at its address (R53, R56). -/
theorem read_writeSpan_add (m : Memory) (a : Nat) {bs : List Byte} {k : Nat} (h : k < bs.length) :
    (m.writeSpan a bs).read (a + k) = bs[k] := by
  rw [read_writeSpan, if_pos (Nat.le_add_right a k), Nat.add_sub_cancel_left,
    List.getD_eq_getElem _ _ h]

/-- A store changes no element but the bytes it covers. -/
theorem keptButMem_writeSpan (s : State) (a : Nat) (bs : List Byte) :
    keptButMem a bs.length s (s.setMem (s.mem.writeSpan a bs)) :=
  ⟨fun _ _ => rfl, rfl, ⟨rfl, rfl⟩, ⟨rfl, rfl⟩, ⟨rfl, rfl, rfl⟩, rfl,
    fun _ hb => read_writeSpan_outside s.mem a bs hb⟩

/-- The fetch reads memory as the last store left it (R62). -/
theorem fetch?_writeSpan {s : State} (hpc : s.pc.toNat ≤ 0x0FFE) (a : Nat) (bs : List Byte) :
    (s.setMem (s.mem.writeSpan a bs)).fetch? =
      some (wordOf (s.byteUnder a bs s.pc.toNat) (s.byteUnder a bs (s.pc.toNat + 1))) :=
  fetch?_eq_some.2 ⟨hpc, by simp only [setMem_byteAt, setMem_pc, read_writeSpan]; rfl⟩

/-- A store of bytes that fit answers (R52, R56). -/
theorem store?_of_fits {s : State} {a : Nat} {bs : List Byte} (h : a + bs.length ≤ memSize) :
    s.store? a bs = some (s.setMem (s.mem.writeSpan a bs)) :=
  store?_eq_some.2 ⟨.inr h, rfl⟩

/-- The first byte an instruction moves is at `I` (spec/43_index_memory.md R186). -/
@[simp] theorem effAddr_zero (s : State) : s.effAddr 0 = s.i.toNat := rfl

/-- LD [I], Vx inside memory stores `V0 .. Vx` at `I` (R184). -/
theorem exec_storeRegs_of_fits {s : State} {x : RegIdx} (h : s.i.toNat + x.val ≤ 0x0FFF) :
    exec (.storeRegs x) s = .next (s.setMem (s.mem.writeSpan s.i.toNat (s.firstRegs x))) := by
  have hfits : s.i.toNat + (s.firstRegs x).length ≤ memSize := by
    rw [length_firstRegs, memSize]
    omega
  rw [exec, execStoreRegs, effAddr_zero, store?_of_fits hfits]

/-- LD B, Vx inside memory stores the three digits at `I` (R183). -/
theorem exec_ldBVx_of_fits {s : State} {x : RegIdx} (h : s.i.toNat + 2 ≤ 0x0FFF) :
    exec (.ldBVx x) s = .next (s.setMem (s.mem.writeSpan s.i.toNat (bcdDigits (s.getV x)))) := by
  have hfits : s.i.toNat + (bcdDigits (s.getV x)).length ≤ memSize := Nat.succ_le_succ h
  rw [exec, execLdBVx, effAddr_zero, store?_of_fits hfits]

/-- `V0 .. Vx` are the first registers in the order of their numbers. -/
theorem firstRegs_eq_map_getV (s : State) (x : RegIdx) :
    s.firstRegs x = ((List.finRange 16).take (x.val + 1)).map s.getV := by
  refine List.ext_getElem (by simp) fun k hk _ => ?_
  rw [getElem_firstRegs, List.getElem_map, List.getElem_take, List.getElem_finRange]
  rfl

/-- The digits as numbers: none of them overflows a byte. -/
theorem map_toNat_bcdDigits (b : Byte) :
    (bcdDigits b).map BitVec.toNat = [b.toNat / 100, b.toNat / 10 % 10, b.toNat % 10] := by
  have := b.isLt
  simp only [bcdDigits, List.map_cons, List.map_nil, BitVec.toNat_ofNat, List.cons.injEq, and_true]
  omega

/-- Bytes with the values of the three digits are the digits. -/
theorem eq_bcdDigits {b : Byte} {bs : List Byte}
    (h : bs.map BitVec.toNat = [b.toNat / 100, b.toNat / 10 % 10, b.toNat % 10]) :
    bs = bcdDigits b :=
  List.map_injective_iff.2 (fun _ _ => BitVec.eq_of_toNat_eq) (h.trans (map_toNat_bcdDigits b).symm)

/-- Settles O36: each store is a write of its bytes at `I`, which the fetch reads. -/
theorem storedBytesAreFetchedNext : Obligations.StoredBytesAreFetchedNext := by
  refine fun s x hpc => ⟨fun bs hbs hfits => ?_, fun bs hbs hfits => ?_⟩
  · obtain rfl := hbs.trans (firstRegs_eq_map_getV s x).symm
    exact ⟨_, exec_storeRegs_of_fits hfits, fetch?_writeSpan hpc _ _⟩
  · obtain rfl := eq_bcdDigits hbs
    exact ⟨_, exec_ldBVx_of_fits hfits, fetch?_writeSpan hpc _ _⟩

/-! ## LOAD and the host's duties -/

/-- LOAD fails exactly on a program that does not fit (R64). -/
theorem load_eq_outOfCapacity {bytes : List Byte} {s : State} :
    load bytes s = .outOfCapacity ↔ 4096 < 0x200 + bytes.length := by
  simp [load, programFits]

/-- Settles O46: LOAD is a write of the program at 0x200, or fails before it. -/
theorem loadCopiesProgramOrFails : Obligations.LoadCopiesProgramOrFails := by
  refine ⟨fun s bytes hfits => ?_, fun p bytes hp hlong => ?_⟩
  · exact ⟨_, load_eq_loaded.2 ⟨hfits, rfl⟩, fun k hk => read_writeSpan_add s.mem progBase hk, rfl,
      keptButMem_writeSpan s progBase bytes⟩
  · have hl : load bytes p.machine = .outOfCapacity := load_eq_outOfCapacity.2 hlong
    exact ⟨hl, by simp only [Session.act, hp, Session.actLoad, hl]⟩

/-- What CREATE may not be given begins no session (spec/70_reset_and_hazards.md R290, R292). -/
theorem start_of_create_eq_none {c : Config} (h : create c = none) :
    Session.start c = .noMove .createInput := by
  rw [Session.start, h]

/-- SET_KEY with an index above 15 has no move (spec/60_exceptions.md R266). -/
theorem act_setKey_of_le (p : Session) {k : Nat} (b : Bool) (h : 16 ≤ k) :
    p.act (.setKey k b) = .noMove .keyIndex := by
  simp [Session.act, keyIndexOk, h]

/-- STEP on a halted machine has no move (R252, R301). -/
theorem actStep_of_halted {p : Session} {r : FaultRecord} (h : p.machine.halted = some r)
    (b : Byte) : p.actStep b = .noMove .stepAfterFault := by
  rw [Session.actStep, stepWith, cycle_halted h]

/-- Settles O48, by the session's phase. -/
theorem brokenHostDutiesHaveNoMove : Obligations.BrokenHostDutiesHaveNoMove := by
  refine ⟨fun c hc => ?_, fun p => ⟨fun k b hk => act_setKey_of_le p b hk, ?_⟩⟩
  · have hn := create_eq_none.2 hc
    exact ⟨hn, start_of_create_eq_none hn⟩
  · obtain ⟨s, phase⟩ := p
    constructor
    · rintro rfl
      exact ⟨fun _ => rfl, rfl, rfl⟩
    · rintro rfl
      exact ⟨fun _ => rfl, fun b r hr => actStep_of_halted (p := ⟨s, .loaded⟩) hr b⟩

end Sys2Proof.Machine
end

section
/-! SUPPORT. When a row of the opcode map selects a word, said of the word as a number (spec/30_encoding.md
R83, R85). -/

namespace Sys2Proof.Machine

open Laws

/-! ## A word cut into the fields of a format -/

/-- Every word is one of format `A` (R83). -/
theorem exists_encA (w : Word) : ∃ op nnn, encA op nnn = w := by
  refine ⟨w.extractLsb' 12 4, fieldNNN w, BitVec.eq_of_toNat_eq ?_⟩
  have := w.isLt
  simp only [toNat_encA, toNat_fieldNNN, BitVec.extractLsb'_toNat, Nat.shiftRight_eq_div_pow]
  omega

/-- Every word is one of format `I` (R83). -/
theorem exists_encI (w : Word) : ∃ op x kk, encI op x kk = w := by
  refine ⟨w.extractLsb' 12 4, fieldX w, fieldKK w, BitVec.eq_of_toNat_eq ?_⟩
  have := w.isLt
  simp only [toNat_encI, val_fieldX, toNat_fieldKK, BitVec.extractLsb'_toNat, Nat.shiftRight_eq_div_pow]
  omega

/-- Every word is one of format `R` (R83). -/
theorem exists_encR (w : Word) : ∃ op x y n, encR op x y n = w := by
  refine ⟨w.extractLsb' 12 4, fieldX w, fieldY w, fieldN w, BitVec.eq_of_toNat_eq ?_⟩
  have := w.isLt
  simp only [toNat_encR, val_fieldX, val_fieldY, toNat_fieldN, BitVec.extractLsb'_toNat,
    Nat.shiftRight_eq_div_pow]
  omega

/-! ## What each mask keeps of a word -/

/-- The opcode is kept. -/
theorem toNat_and_F000 (w : Word) : (w &&& 0xF000).toNat = 4096 * (w.toNat / 4096) := by
  obtain ⟨op, nnn, rfl⟩ := exists_encA w
  have hcode : nibbleAt 12 op = encA op 0#12 := by simp [encA]
  have := nnn.isLt
  rw [mask_encA, hcode, toNat_encA, toNat_encA, BitVec.toNat_zero]
  omega

/-- The opcode and the last nibble are kept. -/
theorem toNat_and_F00F (w : Word) :
    (w &&& 0xF00F).toNat = 4096 * (w.toNat / 4096) + w.toNat % 16 := by
  obtain ⟨op, x, y, n, rfl⟩ := exists_encR w
  have hcode : nibbleAt 12 op ||| nibbleAt 0 n = encR op 0 0 n := by simp [encR, nibbleAt, regField]
  have := n.isLt
  rw [mask_encR, hcode, toNat_encR, toNat_encR, Fin.val_zero]
  omega

/-- The opcode and the low byte are kept. -/
theorem toNat_and_F0FF (w : Word) :
    (w &&& 0xF0FF).toNat = 4096 * (w.toNat / 4096) + w.toNat % 256 := by
  obtain ⟨op, x, kk, rfl⟩ := exists_encI w
  have hcode : nibbleAt 12 op ||| kk.setWidth 16 = encI op 0 kk := by simp [encI, nibbleAt, regField]
  have := kk.isLt
  rw [mask_encX, hcode, toNat_encI, toNat_encI, Fin.val_zero]
  omega

/-! ## When a row selects a word -/

section selects
variable {w c : Word} {b : Word → Instr}

/-- A row that fixes every bit selects its own word (R85). -/
theorem selects_FFFF : OpRow.selects ⟨0xFFFF, c, b⟩ w ↔ w.toNat = c.toNat := by
  have hmask : w &&& 0xFFFF = w := BitVec.and_allOnes
  simp only [OpRow.selects, beq_iff_eq, ← BitVec.toNat_inj, hmask]

/-- A row that fixes the opcode (R85). -/
theorem selects_F000 : OpRow.selects ⟨0xF000, c, b⟩ w ↔
    w.toNat / 4096 = c.toNat / 4096 ∧ c.toNat % 4096 = 0 := by
  simp only [OpRow.selects, beq_iff_eq, ← BitVec.toNat_inj, toNat_and_F000]
  omega

/-- A row that fixes the opcode and the last nibble (R85). -/
theorem selects_F00F : OpRow.selects ⟨0xF00F, c, b⟩ w ↔
    w.toNat / 4096 = c.toNat / 4096 ∧ w.toNat % 16 = c.toNat % 16 ∧ c.toNat / 16 % 256 = 0 := by
  simp only [OpRow.selects, beq_iff_eq, ← BitVec.toNat_inj, toNat_and_F00F]
  omega

/-- A row that fixes the opcode and the low byte (R85). -/
theorem selects_F0FF : OpRow.selects ⟨0xF0FF, c, b⟩ w ↔
    w.toNat / 4096 = c.toNat / 4096 ∧ w.toNat % 256 = c.toNat % 256 ∧ c.toNat / 256 % 16 = 0 := by
  simp only [OpRow.selects, beq_iff_eq, ← BitVec.toNat_inj, toNat_and_F0FF]
  omega

end selects

end Sys2Proof.Machine
end

section
/-! SUPPORT. The decoder and the encoder invert each other (spec/30_encoding.md R83 to R86). -/

namespace Sys2Proof.Machine

/-! ## Each row inverts the encoder -/

/-- A row and `encode` invert each other: the word of an instruction the row builds selects the row and gives
the instruction back, and a word that selects the row is the word of what the row builds from it. -/
structure InvertsEncode (r : OpRow) : Prop where
  selects_encode (w : Word) : r.selects (encode (r.build w))
  build_encode (w : Word) : r.build (encode (r.build w)) = r.build w
  encode_build {w : Word} : r.selects w → encode (r.build w) = w

/-- A row without operands, which fixes every bit. -/
theorem invertsEncode_exact {c : Word} {i : Instr} (h : encode i = c) :
    InvertsEncode ⟨0xFFFF, c, fun _ => i⟩ where
  selects_encode _ := by rw [selects_FFFF, h]
  build_encode _ := rfl
  encode_build hw := h.trans (BitVec.eq_of_toNat_eq (selects_FFFF.1 hw).symm)

/-- A row of format `A` (R83). -/
theorem invertsEncode_formatA (op : Nibble) {f : Addr12 → Instr}
    (h : ∀ nnn, encode (f nnn) = encA op nnn) :
    InvertsEncode ⟨0xF000, encA op 0#12, fun w => f (fieldNNN w)⟩ where
  selects_encode w := by
    simp only [selects_F000, h, toNat_encA, toNat_fieldNNN, BitVec.toNat_zero]
    omega
  build_encode w := by simp only [h, fieldNNN_encA]
  encode_build {w} hw := by
    simp only [selects_F000, toNat_encA, BitVec.toNat_zero] at hw
    apply BitVec.eq_of_toNat_eq
    rw [h, toNat_encA, toNat_fieldNNN]
    omega

/-- A row of format `I` (R83). -/
theorem invertsEncode_formatI (op : Nibble) {f : RegIdx → Byte → Instr}
    (h : ∀ x kk, encode (f x kk) = encI op x kk) :
    InvertsEncode ⟨0xF000, encI op 0 0#8, fun w => f (fieldX w) (fieldKK w)⟩ where
  selects_encode w := by
    simp only [selects_F000, h, toNat_encI, val_fieldX, toNat_fieldKK, BitVec.toNat_zero, Fin.val_zero]
    omega
  build_encode w := by simp only [h, fieldX_encI, fieldKK_encI]
  encode_build {w} hw := by
    simp only [selects_F000, toNat_encI, BitVec.toNat_zero, Fin.val_zero] at hw
    apply BitVec.eq_of_toNat_eq
    rw [h, toNat_encI, val_fieldX, toNat_fieldKK]
    omega

/-- A row of format `X`: the low byte is fixed too (R83). -/
theorem invertsEncode_formatX (op : Nibble) (kk : Byte) {f : RegIdx → Instr}
    (h : ∀ x, encode (f x) = encI op x kk) :
    InvertsEncode ⟨0xF0FF, encI op 0 kk, fun w => f (fieldX w)⟩ where
  selects_encode w := by
    have := kk.isLt
    simp only [selects_F0FF, h, toNat_encI, val_fieldX, Fin.val_zero]
    omega
  build_encode w := by simp only [h, fieldX_encI]
  encode_build {w} hw := by
    have := kk.isLt
    simp only [selects_F0FF, toNat_encI, Fin.val_zero] at hw
    apply BitVec.eq_of_toNat_eq
    rw [h, toNat_encI, val_fieldX]
    omega

/-- A row of format `R`: the last nibble is fixed too (R83). -/
theorem invertsEncode_formatR (op n : Nibble) {f : RegIdx → RegIdx → Instr}
    (h : ∀ x y, encode (f x y) = encR op x y n) :
    InvertsEncode ⟨0xF00F, encR op 0 0 n, fun w => f (fieldX w) (fieldY w)⟩ where
  selects_encode w := by
    have := n.isLt
    simp only [selects_F00F, h, toNat_encR, val_fieldX, val_fieldY, Fin.val_zero]
    omega
  build_encode w := by simp only [h, fieldX_encR, fieldY_encR]
  encode_build {w} hw := by
    have := n.isLt
    simp only [selects_F00F, toNat_encR, Fin.val_zero] at hw
    apply BitVec.eq_of_toNat_eq
    rw [h, toNat_encR, val_fieldX, val_fieldY]
    omega

/-- A row of format `D` (R83). -/
theorem invertsEncode_formatD (op : Nibble) {f : RegIdx → RegIdx → Nibble → Instr}
    (h : ∀ x y n, encode (f x y n) = encR op x y n) :
    InvertsEncode ⟨0xF000, encR op 0 0 0#4, fun w => f (fieldX w) (fieldY w) (fieldN w)⟩ where
  selects_encode w := by
    simp only [selects_F000, h, toNat_encR, val_fieldX, val_fieldY, toNat_fieldN, BitVec.toNat_zero,
      Fin.val_zero]
    omega
  build_encode w := by simp only [h, fieldX_encR, fieldY_encR, fieldN_encR]
  encode_build {w} hw := by
    simp only [selects_F000, toNat_encR, BitVec.toNat_zero, Fin.val_zero] at hw
    apply BitVec.eq_of_toNat_eq
    rw [h, toNat_encR, val_fieldX, val_fieldY, toNat_fieldN]
    omega

/-- Each of the 35 rows is of one of the formats, with the opcode and the fixed bits that `encode` writes. -/
theorem opRows_invertsEncode : ∀ r ∈ opRows, InvertsEncode r := by
  simp only [opRows, opRowsPlain, opRowsRegister, opRowsMixed, opRowsF, List.cons_append,
    List.nil_append, List.forall_mem_cons]
  exact ⟨
    invertsEncode_exact rfl, invertsEncode_exact rfl, invertsEncode_exact rfl,
    invertsEncode_formatA 0x1 fun _ => rfl, invertsEncode_formatA 0x2 fun _ => rfl,
    invertsEncode_formatI 0x3 fun _ _ => rfl, invertsEncode_formatI 0x4 fun _ _ => rfl,
    invertsEncode_formatR 0x5 0x0 fun _ _ => rfl,
    invertsEncode_formatI 0x6 fun _ _ => rfl, invertsEncode_formatI 0x7 fun _ _ => rfl,
    invertsEncode_formatR 0x8 0x0 fun _ _ => rfl, invertsEncode_formatR 0x8 0x1 fun _ _ => rfl,
    invertsEncode_formatR 0x8 0x2 fun _ _ => rfl, invertsEncode_formatR 0x8 0x3 fun _ _ => rfl,
    invertsEncode_formatR 0x8 0x4 fun _ _ => rfl, invertsEncode_formatR 0x8 0x5 fun _ _ => rfl,
    invertsEncode_formatR 0x8 0x6 fun _ _ => rfl, invertsEncode_formatR 0x8 0x7 fun _ _ => rfl,
    invertsEncode_formatR 0x8 0xE fun _ _ => rfl, invertsEncode_formatR 0x9 0x0 fun _ _ => rfl,
    invertsEncode_formatA 0xA fun _ => rfl, invertsEncode_formatA 0xB fun _ => rfl,
    invertsEncode_formatI 0xC fun _ _ => rfl, invertsEncode_formatD 0xD fun _ _ _ => rfl,
    invertsEncode_formatX 0xE 0x9E fun _ => rfl, invertsEncode_formatX 0xE 0xA1 fun _ => rfl,
    invertsEncode_formatX 0xF 0x07 fun _ => rfl, invertsEncode_formatX 0xF 0x0A fun _ => rfl,
    invertsEncode_formatX 0xF 0x15 fun _ => rfl, invertsEncode_formatX 0xF 0x18 fun _ => rfl,
    invertsEncode_formatX 0xF 0x1E fun _ => rfl, invertsEncode_formatX 0xF 0x29 fun _ => rfl,
    invertsEncode_formatX 0xF 0x33 fun _ => rfl, invertsEncode_formatX 0xF 0x55 fun _ => rfl,
    invertsEncode_formatX 0xF 0x65 fun _ => rfl, List.forall_mem_nil _⟩

/-! ## Every instruction has a row -/

theorem exists_fieldNNN (nnn : Addr12) : ∃ w, fieldNNN w = nnn := ⟨encA 0 nnn, fieldNNN_encA 0 nnn⟩

theorem exists_fieldX (x : RegIdx) : ∃ w, fieldX w = x := ⟨encI 0 x 0, fieldX_encI 0 x 0⟩

theorem exists_fieldX_fieldKK (x : RegIdx) (kk : Byte) : ∃ w, fieldX w = x ∧ fieldKK w = kk :=
  ⟨encI 0 x kk, fieldX_encI 0 x kk, fieldKK_encI 0 x kk⟩

theorem exists_fieldX_fieldY (x y : RegIdx) : ∃ w, fieldX w = x ∧ fieldY w = y :=
  ⟨encR 0 x y 0, fieldX_encR 0 x y 0, fieldY_encR 0 x y 0⟩

theorem exists_fieldX_fieldY_fieldN (x y : RegIdx) (n : Nibble) :
    ∃ w, fieldX w = x ∧ fieldY w = y ∧ fieldN w = n :=
  ⟨encR 0 x y n, fieldX_encR 0 x y n, fieldY_encR 0 x y n, fieldN_encR 0 x y n⟩

/-- Every instruction is built by a row, from any word with its operands in the fields (R82, R86). -/
theorem exists_row_build (i : Instr) : ∃ r ∈ opRows, ∃ w, r.build w = i := by
  simp only [opRows, opRowsPlain, opRowsRegister, opRowsMixed, opRowsF, List.cons_append,
    List.nil_append, List.exists_mem_cons_iff]
  cases i <;> simp only [reduceCtorEq, exists_false, false_or] <;>
    simp [exists_fieldNNN, exists_fieldX, exists_fieldX_fieldKK, exists_fieldX_fieldY,
      exists_fieldX_fieldY_fieldN]

/-! ## The round trips -/

/-- The word of an instruction decodes to it (R85, R86). -/
theorem decodeWord_encode (i : Instr) : decodeWord (encode i) = .instr i := by
  obtain ⟨r, hr, w, rfl⟩ := exists_row_build i
  have inv := opRows_invertsEncode r hr
  rw [decodeWord_of_selects hr (inv.selects_encode w), inv.build_encode]

/-- The decoder answers an instruction only through a row that selects the word (R85). -/
theorem exists_selects_of_decodeWord {w : Word} {i : Instr} (h : decodeWord w = .instr i) :
    ∃ r ∈ opRows, r.selects w ∧ r.build w = i := by
  unfold decodeWord at h
  split at h
  · next r hr =>
    exact ⟨r, List.mem_of_find?_eq_some hr, by simpa using List.find?_some hr, Decoded.instr.inj h⟩
  · cases h

/-- Settles O7: the bytes of a word make the word, and the word decodes to its instruction. -/
theorem decodeOfEncode : Obligations.DecodeOfEncode := by
  refine fun i _ => ⟨decodeWord_encode i, ?_⟩
  rw [encodeBytes, decode, wordOf_highByte_lowByte, decodeWord_encode]

/-- Settles O8: the row that selects the word inverts `encode`. -/
theorem encodeOfDecode : Obligations.EncodeOfDecode := by
  intro w i h
  obtain ⟨r, hr, hs, rfl⟩ := exists_selects_of_decodeWord h
  exact (opRows_invertsEncode r hr).encode_build hs

end Sys2Proof.Machine
end

section
/-! SUPPORT. The opcode map as the spec states it: disjoint rows, and the words it leaves illegal
(spec/30_encoding.md R85, R87). -/

namespace Sys2Proof.Machine

/-! ## The rows -/

/-- Two rows that select one word stand at the same place in the map (R85). -/
theorem row_unique {w : Word} {j k : Fin opRows.length} (hj : opRows[j].selects w)
    (hk : opRows[k].selects w) : j = k := by
  have apart := List.pairwise_iff_getElem.1 opRows_apart
  rcases lt_trichotomy j k with hlt | heq | hlt
  · exact (OpRow.apart_selects (apart j k j.isLt k.isLt hlt) hj hk).elim
  · exact heq
  · exact (OpRow.apart_selects (apart k j k.isLt j.isLt hlt) hk hj).elim

/-- Settles O9: two rows are told apart by a bit both fix, so the first row found is the only one. -/
theorem opcodeRowsDisjoint : Obligations.OpcodeRowsDisjoint := by
  refine ⟨by decide, fun w j k hj hk => row_unique (beq_iff_eq.2 hj) (beq_iff_eq.2 hk),
    fun w j hj => decodeWord_of_selects (List.getElem_mem j.isLt) (beq_iff_eq.2 hj), fun w hw => ?_⟩
  refine decodeWord_rejected.2 ⟨rfl, fun r hr => ?_⟩
  obtain ⟨k, hk, rfl⟩ := List.mem_iff_getElem.1 hr
  exact beq_eq_false_iff_ne.2 (hw ⟨k, hk⟩)

/-! ## The illegal words -/

/-- The words no row selects are those R87 lists: opcode by opcode, what the rows leave is what R87 names. -/
theorem forall_selects_eq_false_iff (w : Word) :
    (∀ r ∈ opRows, r.selects w = false) ↔ illegalWord w = true := by
  simp only [opRows, opRowsPlain, opRowsRegister, opRowsMixed, opRowsF, List.cons_append,
    List.nil_append, List.forall_mem_cons, ← Bool.not_eq_true, selects_FFFF, selects_F000, selects_F00F,
    selects_F0FF, illegalWord]
  have hop : w.toNat / 4096 < 16 := by have := w.isLt; omega
  interval_cases hd : w.toNat / 4096 <;> simp <;> omega

/-- Settles O10: a word is rejected exactly when no row selects it, which is R87's list. -/
theorem illegalWordsAreExactlyTheListed : Obligations.IllegalWordsAreExactlyTheListed := fun w => by
  rw [decodeWord_rejected, ← forall_selects_eq_false_iff]
  exact and_iff_right rfl

/-- Settles O11, by running the decoder. -/
theorem writtenWordsDecode : Obligations.WrittenWordsDecode := by
  refine ⟨?_, ?_, ?_, ?_, ?_, ?_, ?_, ?_⟩ <;> decide

end Sys2Proof.Machine
end

section
/-! SUPPORT. The step as a whole (spec/40_fetch_execute_cycle.md): what it runs, when it answers, and what a
fault leaves unchanged. -/

namespace Sys2Proof.Machine

/-! ## What a step runs -/

/-- Settles O12: the fetched word is the one `decode` makes of the two bytes. -/
theorem stepRunsDecodedInstruction : Obligations.StepRunsDecodedInstruction :=
  fun _ _ hh hpc hd => cycle_instr exec hh (fetch?_eq_some.2 ⟨hpc, rfl⟩) hd

/-- Settles O13: above 0x0FFE there is nothing to fetch. -/
theorem fetchOutsideMemoryHalts : Obligations.FetchOutsideMemoryHalts :=
  fun _ hh hpc => cycle_fetchFault exec hh (fetch?_eq_none.2 hpc)

/-- A placed byte reads back where the next step fetches it (log entry 22). -/
theorem byteAt_placeBytes (s : State) {bs : List Byte} {k : Nat} (h : k < bs.length) :
    (s.placeBytes bs).byteAt ((s.placeBytes bs).pc.toNat + k) = bs[k] :=
  read_writeSpan_add s.mem _ h

/-- The next step fetches the word of the two placed bytes (log entry 22). -/
theorem fetch?_placeBytes (s : State) (hi lo : Byte) :
    (s.placeBytes [hi, lo]).fetch? = some (wordOf hi lo) := by
  refine fetch?_eq_some.2 ⟨placeBytes_pc_le s _, ?_⟩
  have h0 := byteAt_placeBytes s (bs := [hi, lo]) (k := 0) Nat.zero_lt_two
  have h1 := byteAt_placeBytes s (bs := [hi, lo]) (k := 1) Nat.one_lt_two
  exact congrArg₂ wordOf h0.symm h1.symm

/-- The host's decoder reads an instruction exactly where `decode` does, from the word's two bytes. -/
theorem decodeTableWord_eq_some {nbits w : Nat} {i : Instr} :
    decodeTableWord nbits w = some i ↔ decode (tableWordBytes nbits w) = .instr i := by
  unfold decodeTableWord
  cases decode (tableWordBytes nbits w) <;> simp

/-- Settles O53: the word fetched is the placed one, so the step runs what it decodes to. -/
theorem placedWordRunsNext : Obligations.PlacedWordRunsNext :=
  fun s _ _ h => cycle_instr exec rfl (fetch?_placeBytes s _ _) (decodeTableWord_eq_some.1 h)

/-! ## When a step answers -/

/-- The faults of RET and CALL answer a next state at their one value of `sp` (spec/60_exceptions.md R253,
R254). -/
theorem stackFault_of_eq {bad : Byte} {s : State} (h : s.sp = bad) (r : FaultRecord) :
    stackFault bad r s = .next (s.halt r) := if_pos h

/-- RET answers wherever `sp` is a depth of the stack: it pops, or underflows at 0 (R131). -/
theorem execRet_answers {s : State} (hsp : s.sp.toNat ≤ 16) : ∃ t, execRet s = .next t := by
  unfold execRet
  split
  · exact ⟨_, rfl⟩
  · next hp =>
    have h0 : s.sp.toNat = 0 := (pop?_eq_none.1 hp).resolve_right hsp.not_gt
    exact ⟨_, stackFault_of_eq (BitVec.eq_of_toNat_eq h0) _⟩

/-- CALL answers wherever `sp` is a depth of the stack: it pushes, or overflows at 16 (R133). -/
theorem execCall_answers {s : State} (nnn : Addr12) (hsp : s.sp.toNat ≤ 16) :
    ∃ t, execCall nnn s = .next t := by
  unfold execCall
  split
  · exact ⟨_, rfl⟩
  · next hp =>
    have h16 : s.sp.toNat = 16 := hsp.antisymm (push?_eq_none.1 hp)
    exact ⟨_, stackFault_of_eq (BitVec.eq_of_toNat_eq h16) _⟩

/-- Every instruction answers a next state wherever `sp` is a depth of the stack. -/
theorem exec_answers (i : Instr) {s : State} (hsp : s.sp.toNat ≤ 16) : ∃ t, exec i s = .next t := by
  cases i with
  | ret => exact execRet_answers hsp
  | call nnn => exact execCall_answers nnn hsp
  | drw _ _ _ | skp _ | sknp _ | ldVxK _ | ldBVx _ | storeRegs _ | loadRegs _ =>
    simp only [exec, execDrw, execSkp, execSknp, execLdVxK, execLdBVx, execStoreRegs, execLoadRegs]
    split <;> exact ⟨_, rfl⟩
  | _ => exact ⟨_, rfl⟩

/-- Settles O15: a fetch fault and an illegal word answer a next state, and so does every instruction. -/
theorem stepEnabledExactlyWhenNotHalted : Obligations.StepEnabledExactlyWhenNotHalted := by
  refine ⟨fun s r hr => cycle_halted hr, fun s hsp hh => ?_⟩
  obtain ⟨-, e⟩ | ⟨w, d, -, -, e⟩ | ⟨w, i, -, -, e⟩ := cycle_running exec hh
  · exact ⟨_, e⟩
  · exact ⟨_, e⟩
  · obtain ⟨t, ht⟩ := exec_answers i (s := s.advance) hsp
    exact ⟨t, e.trans ht⟩

/-! ## What a fault leaves unchanged -/

/-- An instruction that sets the latch changes nothing else: it faults before its first write (R116, R251). -/
theorem Effect.eq_halt {i : Instr} {s t : State} {r : FaultRecord} (he : Effect s i t)
    (hs : s.halted = none) (ht : t.halted = some r) : t = s.halt r := by
  cases he with
  | fault _ q => rw [Option.some.inj ht]
  | _ => cases hs.symm.trans ht

/-- A step that ends in a fault is the latch set at `pc`, before or after the fetch's advance (R116, R251). -/
theorem step_fault {s t : State} {r : FaultRecord} (h : step s = .next t) (ht : t.halted = some r) :
    (0x0FFE < s.pc.toNat ∧ t = s.halt r) ∨ (s.pc.toNat ≤ 0x0FFE ∧ t = s.advance.halt r) := by
  obtain ⟨hs, ⟨hf, rfl⟩ | ⟨w, e, hf, -, rfl⟩ | ⟨w, i, hf, -, hi⟩⟩ := cycle_next h
  · exact .inl ⟨fetch?_eq_none.1 hf, by rw [Option.some.inj ht]⟩
  · exact .inr ⟨(fetch?_eq_some.1 hf).1, by rw [Option.some.inj ht]⟩
  · exact .inr ⟨(fetch?_eq_some.1 hf).1, (exec_effect hi).eq_halt hs ht⟩

/-- Settles O16, by whether the fetch has advanced `pc`. -/
theorem faultChangesOnlyPcAndLatch : Obligations.FaultChangesOnlyPcAndLatch := by
  intro s t r h ht
  obtain ⟨hpc, rfl⟩ | ⟨hpc, rfl⟩ := step_fault h ht
  · exact ⟨rfl, fun _ => rfl, fun hle => absurd hpc hle.not_gt⟩
  · exact ⟨rfl, fun hlt => absurd hlt hpc.not_gt, fun _ => rfl⟩

end Sys2Proof.Machine
end

section
/-! SUPPORT. Control flow (spec/41_control_flow.md): what the jumps, the skips, CALL and RET answer, and the
elements they leave unchanged. -/

namespace Sys2Proof.Machine

/-! ## What a write of `pc` or of the stack leaves unchanged -/

/-- A write of `pc` changes no other element. -/
theorem keptButRegs_setPc (s : State) (w : Word) : keptButRegs [] s (s.setPc w) :=
  ⟨fun _ _ => rfl, rfl, ⟨rfl, rfl⟩, ⟨rfl, rfl⟩, ⟨rfl, rfl, rfl⟩, rfl, fun _ => rfl⟩

/-- A write of the stack, its pointer and `pc` changes no other element. -/
theorem keptButStack_setStack (s : State) (k : Vector Word 16) (b : Byte) (w : Word) :
    keptButStack s (((s.setStack k).setSp b).setPc w) :=
  ⟨fun _ _ => rfl, rfl, ⟨rfl, rfl⟩, ⟨rfl, rfl, rfl⟩, rfl, fun _ => rfl⟩

/-! ## Jumps and skips -/

/-- Settles O19: each of the three is a write of `pc`, NOP of the value it has. -/
theorem nopAndJumpsSetOnlyPc : Obligations.NopAndJumpsSetOnlyPc := fun s =>
  ⟨⟨rfl, s, rfl, rfl, keptButRegs_setPc s s.pc⟩,
    fun nnn => ⟨toNat_encA 0x1 nnn, _, rfl, toNat_zextAddr nnn, keptButRegs_setPc s _⟩,
    fun nnn => ⟨toNat_encA 0xB nnn, _, rfl, toNat_offsetTarget s nnn, keptButRegs_setPc s _⟩⟩

/-- An instruction that answers a skip under a test changes only `pc`, by 2 exactly where the test's condition
holds (R139). -/
theorem exec_skip {i : Instr} {s : State} {c : Bool} {P : Prop} [Decidable P]
    (hi : exec i s = .next (s.skipIf c)) (hc : c = true ↔ P) :
    ∃ t, exec i s = .next t ∧ keptButRegs [] s t ∧ t.pc = if P then s.pc + 2 else s.pc := by
  rw [skipIf_eq] at hi
  exact ⟨_, hi, keptButRegs_setPc s _, if_congr hc rfl rfl⟩

/-- Bytes are equal exactly where their unsigned values are. -/
theorem beq_iff_toNat_eq {a b : Byte} : (a == b) = true ↔ a.toNat = b.toNat := by
  rw [beq_iff_eq, BitVec.toNat_inj]

/-- Bytes differ exactly where their unsigned values do. -/
theorem bne_iff_toNat_ne {a b : Byte} : (a != b) = true ↔ a.toNat ≠ b.toNat := by
  rw [bne_iff_ne, BitVec.toNat_ne_iff_ne]

/-- Settles O20: each of the four answers a skip under its comparison. -/
theorem compareSkipsAdvancePc : Obligations.CompareSkipsAdvancePc := fun _ x y kk =>
  ⟨⟨toNat_encI 0x3 x kk, exec_skip rfl beq_iff_toNat_eq⟩,
    ⟨toNat_encI 0x4 x kk, exec_skip rfl bne_iff_toNat_ne⟩,
    ⟨toNat_encR 0x5 x y 0x0, exec_skip rfl beq_iff_toNat_eq⟩,
    ⟨toNat_encR 0x9 x y 0x0, exec_skip rfl bne_iff_toNat_ne⟩⟩

/-! ## CALL and RET -/

/-- CALL with room on the stack pushes and jumps (R133). -/
theorem exec_call_of_lt (nnn : Addr12) {s : State} (h : s.sp.toNat < 16) :
    exec (.call nnn) s = .next (((s.setStack (s.stack.set s.sp.toNat s.pc h)).setSp
      (s.sp + 1)).setPc (zextAddr nnn)) := by
  rw [exec, execCall, push?_eq_some.2 ⟨h, rfl⟩]

/-- CALL on a full stack overflows (spec/60_exceptions.md R254). -/
theorem exec_call_of_full (nnn : Addr12) {s : State} (h : s.sp.toNat = 16) :
    exec (.call nnn) s = .next (s.halt (.stackOverflow s.instrAddr (encode (.call nnn)))) := by
  rw [exec, execCall, push?_eq_none.2 h.ge]
  exact stackFault_of_eq (BitVec.eq_of_toNat_eq h) _

/-- RET with an entry on the stack, number `k` on top, pops it and jumps there (R131). -/
theorem exec_ret_of_top {s : State} (k : Fin 16) (h : s.sp.toNat = k.val + 1) :
    exec .ret s = .next ((s.setSp (s.sp - 1)).setPc s.stack[k]) := by
  have htop : s.pop? = some (s.stack[k], s.setSp (s.sp - 1)) :=
    pop?_eq_some.2 ⟨by omega, by simp [h], rfl⟩
  rw [exec, execRet, htop]

/-- RET on an empty stack underflows (R253). -/
theorem exec_ret_of_empty {s : State} (h : s.sp.toNat = 0) :
    exec .ret s = .next (s.halt (.stackUnderflow s.instrAddr (encode .ret))) := by
  rw [exec, execRet, pop?_eq_none.2 (.inl h)]
  exact stackFault_of_eq (BitVec.eq_of_toNat_eq h) _

/-- The stack pointer does not wrap in a push (spec/10_state.md R28). -/
theorem toNat_sp_add_one {s : State} (h : s.sp.toNat < 16) : (s.sp + 1).toNat = s.sp.toNat + 1 := by
  bv_omega

/-- The stack pointer does not wrap in a pop (R28). -/
theorem toNat_sp_sub_one {s : State} {n : Nat} (h : s.sp.toNat = n + 1) : (s.sp - 1).toNat = n := by
  bv_omega

/-- Settles O21, by whether the stack has room. -/
theorem callPushesReturnAddress : Obligations.CallPushesReturnAddress := by
  refine fun s nnn => ⟨toNat_encA 0x2 nnn, fun h => ?_, exec_call_of_full nnn⟩
  refine ⟨_, exec_call_of_lt nnn h, toNat_zextAddr nnn, toNat_sp_add_one h, fun k => ?_,
    keptButStack_setStack s _ _ _⟩
  simp only [setPc_stack, setSp_stack, setStack_stack, Fin.getElem_fin, Vector.getElem_set, eq_comm]

/-- Settles O22, by whether the stack holds an entry. -/
theorem retPopsReturnAddress : Obligations.RetPopsReturnAddress :=
  fun s => ⟨rfl, fun k h => ⟨_, exec_ret_of_top k h, rfl, toNat_sp_sub_one h, rfl,
    keptButStack_setStack s s.stack _ _⟩, exec_ret_of_empty⟩

/-- Settles O23: the entry on top of the later state's stack is the one CALL wrote. -/
theorem retAfterCallRestoresPc : Obligations.RetAfterCallRestoresPc := by
  refine fun s nnn h => ⟨_, exec_call_of_lt nnn h, fun t' hstack hsp => ?_⟩
  simp only [setPc_stack, setSp_stack, setStack_stack, setPc_sp, setSp_sp] at hstack hsp
  have htop : t'.sp.toNat = s.sp.toNat + 1 := hsp ▸ toNat_sp_add_one h
  refine ⟨_, exec_ret_of_top ⟨s.sp.toNat, h⟩ htop, ?_, ?_⟩
  · simp [hstack]
  · simp [hsp]

end Sys2Proof.Machine
end

section
/-! SUPPORT. Registers and arithmetic (spec/42_alu.md): the words of the family as numbers, the results and the
flags as numbers, what each form of instruction writes, and the byte of RND. -/

namespace Sys2Proof.Machine

/-! ## Words, results and flags as numbers -/

/-- A word of the register-register group, the last nibble added to the opcode (spec/30_encoding.md R83, R86). -/
theorem toNat_encR_eight (n : Nibble) (x y : RegIdx) :
    (encR 0x8 x y n).toNat = 0x8000 + n.toNat + 0x100 * x.val + 0x10 * y.val := by
  rw [toNat_encR, show (0x8 : Nibble).toNat = 8 from rfl]
  omega

/-- The difference modulo 256, on integers (R162). -/
theorem toNat_subByte_eq_emod (a b : Byte) :
    ((subByte a b).toNat : Int) = ((a.toNat : Int) - b.toNat) % 256 := by
  have := b.isLt
  rw [toNat_subByte]
  omega

/-- The flag of a comparison (spec/10_state.md R22). -/
theorem toNat_flagByte_decide (p : Prop) [Decidable p] :
    (flagByte (decide p)).toNat = if p then 1 else 0 := by
  rw [toNat_flagByte]
  exact if_congr decide_eq_true_iff rfl rfl

/-- The bit SHR shifts out (R158). -/
theorem toNat_shrFlag (a : Byte) : (shrFlag a).toNat = a.toNat % 2 := by
  rw [shrFlag, toNat_flagByte, BitVec.getLsbD, Nat.testBit_zero]
  rcases Nat.mod_two_eq_zero_or_one a.toNat with h | h <;> simp [h]

/-- The bit SHL shifts out (R160). -/
theorem toNat_shlFlag (a : Byte) : (shlFlag a).toNat = a.toNat / 128 := by
  have := a.isLt
  rw [shlFlag, toNat_flagByte, BitVec.getLsbD, Nat.testBit_eq_decide_div_mod_eq]
  simp only [decide_eq_true_eq]
  split <;> omega

/-! ## What an instruction of the family writes -/

/-- A register reads as it was just written (R21). -/
theorem setV_getV_same (s : State) (x : RegIdx) (b : Byte) : (s.setV x b).getV x = b := by
  rw [setV_getV, if_pos rfl]

/-- A write of the registers that keeps all but those listed changes no other element. -/
theorem keptButRegs_setRegs {rs : List RegIdx} {s : State} {v : Vector Byte 16}
    (h : ∀ r ∉ rs, (s.setRegs v).getV r = s.getV r) : keptButRegs rs s (s.setRegs v) :=
  ⟨h, rfl, ⟨rfl, rfl⟩, ⟨rfl, rfl⟩, ⟨rfl, rfl, rfl⟩, rfl, fun _ => rfl⟩

/-- A write of one register changes no other element. -/
theorem keptButRegs_setV (s : State) (x : RegIdx) (b : Byte) : keptButRegs [x] s (s.setV x b) :=
  keptButRegs_setRegs (v := s.v.set x b) fun r hr =>
    (setV_getV s x r b).trans (if_neg (List.ne_of_not_mem_cons hr))

/-- A write of `Vx` then `VF` changes no other element (spec/40_fetch_execute_cycle.md R115). -/
theorem keptButRegs_setResultThenFlag (s : State) (x : RegIdx) (res flag : Byte) :
    keptButRegs [x, regF] s (s.setResultThenFlag x res flag) :=
  keptButRegs_setRegs (v := (s.v.set x res).set regF flag) fun r hr => by
    simp only [List.mem_cons, List.not_mem_nil, or_false, not_or] at hr
    refine (setResultThenFlag_getV s x r res flag).trans ?_
    rw [if_neg hr.2, if_neg hr.1]

/-- A write of `VF` then `Vx` changes no other element (R115). -/
theorem keptButRegs_setFlagThenResult (s : State) (x : RegIdx) (res flag : Byte) :
    keptButRegs [x, regF] s (s.setFlagThenResult x res flag) :=
  keptButRegs_setRegs (v := (s.v.set regF flag).set x res) fun r hr => by
    simp only [List.mem_cons, List.not_mem_nil, or_false, not_or] at hr
    refine (setFlagThenResult_getV s x r res flag).trans ?_
    rw [if_neg hr.1, if_neg hr.2]

/-- The flag survives in `VF` where it is written last (R115; decision D6, log entry 8). -/
theorem setResultThenFlag_getV_flag (s : State) (x : RegIdx) (res flag : Byte) :
    (s.setResultThenFlag x res flag).getV regF = flag := by
  rw [setResultThenFlag_getV, if_pos rfl]

/-- The result survives in `Vx` unless the flag takes its place. -/
theorem setResultThenFlag_getV_result {x : RegIdx} (hx : x ≠ regF) (s : State) (res flag : Byte) :
    (s.setResultThenFlag x res flag).getV x = res := by
  rw [setResultThenFlag_getV, if_neg hx, if_pos rfl]

/-- The result survives in `Vx` where it is written last (R115; decision D6, log entry 8). -/
theorem setFlagThenResult_getV_result (s : State) (x : RegIdx) (res flag : Byte) :
    (s.setFlagThenResult x res flag).getV x = res := by
  rw [setFlagThenResult_getV, if_pos rfl]

/-- The flag survives in `VF` unless the result takes its place. -/
theorem setFlagThenResult_getV_flag {x : RegIdx} (hx : x ≠ regF) (s : State) (res flag : Byte) :
    (s.setFlagThenResult x res flag).getV regF = flag := by
  rw [setFlagThenResult_getV, if_neg hx.symm, if_pos rfl]

/-! ## The obligations -/

/-- Settles O25: each of the six answers a write of `Vx`, of the value its rule names. -/
theorem loadsAndLogicWriteOnlyVx : Obligations.LoadsAndLogicWriteOnlyVx := by
  refine fun s x y kk =>
    ⟨⟨toNat_encI 0x6 x kk, _, rfl, rfl, keptButRegs_setV s x _, setV_getV_same s x _⟩,
      ⟨toNat_encI 0x7 x kk, _, rfl, rfl, keptButRegs_setV s x _, ?add⟩,
      ⟨toNat_encR_eight 0x0 x y, _, rfl, rfl, keptButRegs_setV s x _, setV_getV_same s x _⟩,
      ⟨toNat_encR_eight 0x1 x y, _, rfl, rfl, keptButRegs_setV s x _, fun k => ?or⟩,
      ⟨toNat_encR_eight 0x2 x y, _, rfl, rfl, keptButRegs_setV s x _, fun k => ?and⟩,
      ⟨toNat_encR_eight 0x3 x y, _, rfl, rfl, keptButRegs_setV s x _, fun k => ?xor⟩⟩
  case add => rw [setV_getV_same, toNat_addByte]
  case or => rw [setV_getV_same, BitVec.getLsbD_or]
  case and => rw [setV_getV_same, BitVec.getLsbD_and]
  case xor => rw [setV_getV_same, BitVec.getLsbD_xor, Bool.xor]

/-- Settles O26: both write the result, then the flag, of the values before. -/
theorem addAndSubWriteResultThenFlag : Obligations.AddAndSubWriteResultThenFlag := by
  refine fun s x y => ⟨⟨toNat_encR_eight 0x4 x y, _, rfl, rfl,
      keptButRegs_setResultThenFlag s x _ _, fun hx => ?_, ?_⟩,
    ⟨toNat_encR_eight 0x5 x y, _, rfl, rfl,
      keptButRegs_setResultThenFlag s x _ _, fun hx => ?_, ?_⟩⟩
  · rw [setResultThenFlag_getV_result hx, toNat_addByte]
  · rw [setResultThenFlag_getV_flag, carryFlag, toNat_flagByte_decide]
  · rw [setResultThenFlag_getV_result hx, toNat_subByte_eq_emod]
  · rw [setResultThenFlag_getV_flag, noBorrowFlag, toNat_flagByte_decide]

/-- Settles O27: all three write the flag, then the result, of the values before. -/
theorem shiftsAndSubnWriteFlagThenResult : Obligations.ShiftsAndSubnWriteFlagThenResult := by
  refine fun s x y => ⟨⟨toNat_encR_eight 0x6 x y, _, rfl, rfl,
      keptButRegs_setFlagThenResult s x _ _, ?_, fun hx => ?_⟩,
    ⟨toNat_encR_eight 0x7 x y, _, rfl, rfl,
      keptButRegs_setFlagThenResult s x _ _, ?_, fun hx => ?_⟩,
    ⟨toNat_encR_eight 0xE x y, _, rfl, rfl,
      keptButRegs_setFlagThenResult s x _ _, ?_, fun hx => ?_⟩⟩
  · rw [setFlagThenResult_getV_result, toNat_shrByte]
  · rw [setFlagThenResult_getV_flag hx, toNat_shrFlag]
  · rw [setFlagThenResult_getV_result, toNat_subByte_eq_emod]
  · rw [setFlagThenResult_getV_flag hx, greaterFlag, toNat_flagByte_decide]
  · rw [setFlagThenResult_getV_result, toNat_shlByte]
  · rw [setFlagThenResult_getV_flag hx, toNat_shlFlag]

/-- Settles O28: with its byte given RND is a write of `Vx`, and in `exec` one after the draw is counted. -/
theorem rndMasksTheStepsByte : Obligations.RndMasksTheStepsByte := by
  refine fun s x kk => ⟨toNat_encI 0xC x kk, fun byte => ?_, ?_⟩
  · refine ⟨s.setV x (byte &&& kk), rfl, rfl, fun k => ?_, keptButRegs_setV s x _⟩
    rw [setV_getV_same, BitVec.getLsbD_and]
  · refine ⟨s.countDraw.setV x (Config.rnd s &&& kk), rfl, rfl, rfl, fun k => ?_,
      keptButRegs_setV s x _⟩
    rw [setV_getV_same, BitVec.getLsbD_and]

/-- On the Machine State `step` does what STEP does with the free byte of the state in its execute phase (log
entry 3). -/
theorem onMachine_step (s : State) :
    onMachine (step s) = onMachine (stepWith (Config.rnd s.advance) s) := by
  by_cases hrnd : ∃ x kk, s.fetch? = some (encode (.rnd x kk))
  · obtain ⟨x, kk, hf⟩ := hrnd
    cases hh : s.halted with
    | some r => rw [step, stepWith, cycle_halted hh, cycle_halted hh]
    | none =>
      rw [step_rnd hh hf, stepWith, cycle_instr _ hh hf (decodeWord_encode_rnd x kk)]
      rfl
  · exact congrArg onMachine (step_eq_stepWith (fun x kk hf => hrnd ⟨x, kk, hf⟩) _)

/-- Settles O29: where the word is no RND, STEP with either byte is `step`. -/
theorem onlyRndSeesTheStepsByte : Obligations.OnlyRndSeesTheStepsByte := by
  refine ⟨fun s b c h => ?_, onMachine_step⟩
  have hrnd : ∀ x kk, s.fetch? ≠ some (encode (.rnd x kk)) := fun x kk hf =>
    h _ x kk hf (decodeWord_encode_rnd x kk)
  rw [← step_eq_stepWith hrnd b, step_eq_stepWith hrnd c]

end Sys2Proof.Machine
end

section
/-! SUPPORT. The index register and memory transfer (spec/43_index_memory.md): the words of the family as numbers,
what each transfer inside memory answers, and the fault of one that leaves memory. -/

namespace Sys2Proof.Machine

/-! ## The index register -/

/-- A word of the last group, its low byte added to the opcode (spec/30_encoding.md R83, R86). -/
theorem toNat_encI_fifteen (x : RegIdx) (kk : Byte) :
    (encI 0xF x kk).toNat = 0xF000 + kk.toNat + 0x100 * x.val := by
  rw [toNat_encI, show (0xF : Nibble).toNat = 15 from rfl]
  omega

/-- A write of `I` changes no other element. -/
theorem keptButI_setI (s : State) (w : Word) : keptButI s (s.setI w) :=
  ⟨fun _ _ => rfl, ⟨rfl, rfl⟩, ⟨rfl, rfl⟩, ⟨rfl, rfl, rfl⟩, rfl, fun _ => rfl⟩

/-- The sum of a word and a byte wraps modulo 65536 (R181). -/
theorem toNat_add_zextByte (w : Word) (b : Byte) :
    (w + zextByte b).toNat = (w.toNat + b.toNat) % 65536 := by
  rw [BitVec.toNat_add, toNat_zextByte]

/-- Settles O30: both answer a write of `I`. -/
theorem loadAndAddIndexWriteOnlyI : Obligations.LoadAndAddIndexWriteOnlyI := fun s x nnn =>
  ⟨⟨toNat_encA 0xA nnn, _, rfl, rfl, keptButI_setI s _, toNat_zextAddr nnn⟩,
    ⟨toNat_encI_fifteen x 0x1E, _, rfl, rfl, keptButI_setI s _, toNat_add_zextByte s.i (s.getV x)⟩⟩

/-- Settles O31: LD F answers a write of `I`, the glyph's address for the unmasked byte. -/
theorem fontAddressOfTheWholeByte : Obligations.FontAddressOfTheWholeByte := fun s x =>
  ⟨toNat_encI_fifteen x 0x29, _, rfl, rfl, keptButI_setI s _, toNat_glyphAddr (s.getV x)⟩

/-! ## Stores -/

@[simp] theorem length_bcdDigits (b : Byte) : (bcdDigits b).length = 3 := rfl

/-- A store whose last byte, number `n`, is outside memory does not answer (spec/60_exceptions.md R257). -/
theorem store?_of_exceeds {s : State} {a n : Nat} {bs : List Byte} (hlen : bs.length = n + 1)
    (h : 0x0FFF < a + n) : s.store? a bs = none :=
  store?_eq_none.2 ⟨List.ne_nil_of_length_eq_add_one hlen, hlen ▸ Nat.succ_lt_succ h⟩

/-- LD B, Vx that leaves memory faults with the highest address it would touch (R183, R257). -/
theorem exec_ldBVx_of_exceeds {s : State} {x : RegIdx} (h : 0x0FFF < s.i.toNat + 2) :
    exec (.ldBVx x) s =
      .next (s.halt (.memOutOfRange (s.i.toNat + 2) s.instrAddr (encode (.ldBVx x)))) := by
  rw [exec, execLdBVx, effAddr_zero, store?_of_exceeds (length_bcdDigits _) h]
  rfl

/-- LD [I], Vx that leaves memory faults with the highest address it would touch (R184, R257). -/
theorem exec_storeRegs_of_exceeds {s : State} {x : RegIdx} (h : 0x0FFF < s.i.toNat + x.val) :
    exec (.storeRegs x) s =
      .next (s.halt (.memOutOfRange (s.i.toNat + x.val) s.instrAddr (encode (.storeRegs x)))) := by
  rw [exec, execStoreRegs, effAddr_zero, store?_of_exceeds (length_firstRegs s x) h]
  rfl

/-- A stored byte is read back by an observer (R53, R56). -/
theorem byteAt_setMem_writeSpan (s : State) (a : Nat) {bs : List Byte} {k : Nat}
    (h : k < bs.length) : (s.setMem (s.mem.writeSpan a bs)).byteAt (a + k) = bs[k] :=
  (setMem_byteAt s _ _).trans (read_writeSpan_add s.mem a h)

/-- Each digit as a number (R183). -/
theorem toNat_getElem_bcdDigits (b : Byte) :
    (bcdDigits b)[0].toNat = b.toNat / 100 ∧ (bcdDigits b)[1].toNat = b.toNat / 10 % 10 ∧
      (bcdDigits b)[2].toNat = b.toNat % 10 := by
  obtain ⟨hundreds, rest⟩ := List.cons.inj (map_toNat_bcdDigits b)
  obtain ⟨tens, rest⟩ := List.cons.inj rest
  exact ⟨hundreds, tens, (List.cons.inj rest).1⟩

/-- Settles O32, by whether the three bytes fit. -/
theorem bcdStoresThreeDigits : Obligations.BcdStoresThreeDigits := by
  refine fun s x => ⟨toNat_encI_fifteen x 0x33, fun hfits => ?_, exec_ldBVx_of_exceeds⟩
  have stored : ∀ k (hk : k < 3), (s.setMem (s.mem.writeSpan s.i.toNat
      (bcdDigits (s.getV x)))).byteAt (s.i.toNat + k) = (bcdDigits (s.getV x))[k] :=
    fun _ hk => byteAt_setMem_writeSpan s s.i.toNat hk
  obtain ⟨hundreds, tens, ones⟩ := toNat_getElem_bcdDigits (s.getV x)
  refine ⟨_, exec_ldBVx_of_fits hfits, rfl, ?_, ?_, ?_, keptButMem_writeSpan s _ _⟩
  · exact (congrArg BitVec.toNat (stored 0 (by decide))).trans hundreds
  · exact (congrArg BitVec.toNat (stored 1 (by decide))).trans tens
  · exact (congrArg BitVec.toNat (stored 2 (by decide))).trans ones

/-- After the store of `V0 .. Vx` the byte at `a + k` is `V[k]` (R184). -/
theorem byteAt_writeSpan_firstRegs (s : State) (a : Nat) {x k : RegIdx} (hk : k ≤ x) :
    (s.setMem (s.mem.writeSpan a (s.firstRegs x))).byteAt (a + k.val) = s.getV k := by
  have hlt : k.val < (s.firstRegs x).length := length_firstRegs s x ▸ Nat.lt_succ_of_le hk
  rw [byteAt_setMem_writeSpan s a hlt, getElem_firstRegs]

/-- Settles O33, by whether the bytes fit. -/
theorem storeRegsWritesMemoryFromI : Obligations.StoreRegsWritesMemoryFromI := fun s x =>
  ⟨toNat_encI_fifteen x 0x55,
    fun hfits => ⟨_, exec_storeRegs_of_fits hfits, rfl,
      fun _ hk => byteAt_writeSpan_firstRegs s s.i.toNat hk,
      length_firstRegs s x ▸ keptButMem_writeSpan s s.i.toNat (s.firstRegs x)⟩,
    exec_storeRegs_of_exceeds⟩

/-! ## Loads -/

/-- LD Vx, [I] inside memory loads `V0 .. Vx` from `I` (R185). -/
theorem exec_loadRegs_of_fits {s : State} {x : RegIdx} (h : s.i.toNat + x.val ≤ 0x0FFF) :
    exec (.loadRegs x) s = .next (s.setFirstRegs (s.mem.readSpan s.i.toNat (x.val + 1))) := by
  rw [exec, execLoadRegs, effAddr_zero, load?_eq_some.2 ⟨.inr (Nat.succ_le_succ h), rfl⟩]

/-- LD Vx, [I] that leaves memory faults with the highest address it would touch (R185, R257). -/
theorem exec_loadRegs_of_exceeds {s : State} {x : RegIdx} (h : 0x0FFF < s.i.toNat + x.val) :
    exec (.loadRegs x) s =
      .next (s.halt (.memOutOfRange (s.i.toNat + x.val) s.instrAddr (encode (.loadRegs x)))) := by
  rw [exec, execLoadRegs, effAddr_zero, load?_eq_none.2 ⟨x.val.succ_pos, Nat.succ_lt_succ h⟩]
  rfl

/-- After a load of `V0 .. Vx` each of them is its byte of memory, and the others are kept (R185). -/
theorem setFirstRegs_readSpan_getV (s : State) (a : Nat) (x k : RegIdx) :
    (s.setFirstRegs (s.mem.readSpan a (x.val + 1))).getV k =
      if k ≤ x then s.byteAt (a + k.val) else s.getV k := by
  have hlen := length_readSpan s.mem a (x.val + 1)
  rw [setFirstRegs_getV]
  split
  · next hk =>
    rw [List.getD_eq_getElem _ _ ((Nat.lt_succ_of_le hk).trans_eq hlen.symm), getElem_readSpan]
    rfl
  · next hk => exact List.getD_eq_default _ _ (hlen.le.trans (not_le.1 hk))

/-- A load of `V0 .. Vx` changes no other element. -/
theorem keptButRegs_setFirstRegs_readSpan (s : State) (a : Nat) (x : RegIdx) :
    keptButRegs ((List.finRange 16).filter (fun k => decide (k ≤ x))) s
      (s.setFirstRegs (s.mem.readSpan a (x.val + 1))) := by
  refine keptButRegs_setRegs fun r hr => ?_
  have hgt : ¬ r ≤ x := fun hle =>
    hr (List.mem_filter.2 ⟨List.mem_finRange r, decide_eq_true hle⟩)
  exact (setFirstRegs_readSpan_getV s a x r).trans (if_neg hgt)

/-- Settles O34, by whether the bytes fit. -/
theorem loadRegsReadsMemoryFromI : Obligations.LoadRegsReadsMemoryFromI := fun s x =>
  ⟨toNat_encI_fifteen x 0x65,
    fun hfits => ⟨_, exec_loadRegs_of_fits hfits, rfl, setFirstRegs_readSpan_getV s _ x,
      keptButRegs_setFirstRegs_readSpan s _ x⟩,
    exec_loadRegs_of_exceeds⟩

/-- Settles O35: the byte the load reads for `V[k]` is the one the store wrote of it. -/
theorem loadAfterStoreRestoresRegisters : Obligations.LoadAfterStoreRestoresRegisters := by
  refine fun s x hfits => ⟨_, exec_storeRegs_of_fits hfits, fun t' hmem hi => ?_⟩
  have hi : t'.i = s.i := hi.trans (setMem_i s _)
  refine ⟨_, exec_loadRegs_of_fits (hi ▸ hfits), fun k hk => ?_⟩
  rw [setFirstRegs_readSpan_getV, if_pos hk, hmem, hi]
  exact byteAt_writeSpan_firstRegs s s.i.toNat hk

end Sys2Proof.Machine
end

section
/-! SUPPORT. The display (spec/44_display.md): what each part of a drawing does to every pixel and to the
collision, and the two instructions. -/

namespace Sys2Proof.Machine

/-! ## The framebuffer -/

/-- A framebuffer is its pixels (R202). -/
theorem eq_of_pixel_eq {f g : Framebuffer}
    (h : ∀ px py, px < 64 → py < 32 → f.pixel (px + 64 * py) = g.pixel (px + 64 * py)) : f = g := by
  refine Vector.ext fun py hy => BitVec.eq_of_getLsbD_eq fun px hx => ?_
  have hrow : (px + 64 * py) / 64 = py := by omega
  have hcol : (px + 64 * py) % 64 = px := by omega
  have hpixel := h px py hx hy
  simpa only [Framebuffer.pixel, Framebuffer.row, hrow, hcol, Vector.getElem?_eq_getElem hy,
    Option.getD_some] using hpixel

/-- The pixel that row `row` and column `col` of a sprite at `(vx, vy)` fall on, found from the pixel: its
distance from `(vx, vy)` is taken on each axis on its own (R201, R202). -/
theorem pixelIndex_eq_iff {vx vy : Byte} {row col px py : Nat} (hrow : row < 32) (hcol : col < 64)
    (hx : px < 64) (hy : py < 32) :
    pixelIndex ((vx.toNat + col) % fbWidth) ((vy.toNat + row) % fbHeight) = px + 64 * py ↔
      (py + 256 - vy.toNat) % 32 = row ∧ (px + 256 - vx.toNat) % 64 = col := by
  have := vx.isLt
  have := vy.isLt
  simp only [pixelIndex, fbWidth, fbHeight]
  omega

/-! ## What a drawing does -/

/-- From the drawing `d` to `e` each set bit of a sprite at `(vx, vy)` was XORed onto the screen once, and a
collision was noted exactly where one met a set pixel (R201, R203). `bits row col` are the bits of the
sprite. -/
structure Stamps (vx vy : Byte) (bits : Nat → Nat → Bool) (d e : Drawing) : Prop where
  pixel {px py : Nat} : px < 64 → py < 32 → e.fb.pixel (px + 64 * py) =
    (d.fb.pixel (px + 64 * py) ^^ bits ((py + 256 - vy.toNat) % 32) ((px + 256 - vx.toNat) % 64))
  collision : e.collision = true ↔ d.collision = true ∨
    ∃ px py, px < 64 ∧ py < 32 ∧ d.fb.pixel (px + 64 * py) = true ∧
      bits ((py + 256 - vy.toNat) % 32) ((px + 256 - vx.toNat) % 64) = true

section stamps
variable {vx vy : Byte} {bits more : Nat → Nat → Bool} {d e f : Drawing}

/-- Drawing no bits. -/
theorem stamps_of_no_bits (h : ∀ r c, bits r c = false) : Stamps vx vy bits d d where
  pixel _ _ := by rw [h, Bool.xor_false]
  collision := by simp [h]

/-- The same bits, said in another way. -/
theorem Stamps.congr (h : Stamps vx vy bits d e) (hbits : ∀ r c, more r c = bits r c) :
    Stamps vx vy more d e := by
  rwa [show more = bits from funext fun r => funext (hbits r)]

/-- Bits that are never both set are joined by `^^` as by `||`. -/
theorem xor_eq_or : ∀ {a b : Bool}, (a = true → b = false) → (a ^^ b) = (a || b) := by decide

/-- Two parts of a sprite that share no bit: where the second part meets a pixel, the first has left it. -/
theorem Stamps.trans (hd : Stamps vx vy bits d e) (he : Stamps vx vy more e f)
    (hdisj : ∀ r c, bits r c = true → more r c = false) :
    Stamps vx vy (fun r c => bits r c || more r c) d f where
  pixel {px py} hx hy := by
    rw [he.pixel hx hy, hd.pixel hx hy, Bool.xor_assoc, xor_eq_or (hdisj _ _)]
  collision := by
    have kept {px py : Nat} (hx : px < 64) (hy : py < 32)
        (hm : more ((py + 256 - vy.toNat) % 32) ((px + 256 - vx.toNat) % 64) = true) :
        e.fb.pixel (px + 64 * py) = d.fb.pixel (px + 64 * py) := by
      have hb := Bool.eq_false_iff.2 fun hb => Bool.false_ne_true ((hdisj _ _ hb).symm.trans hm)
      rw [hd.pixel hx hy, hb, Bool.xor_false]
    rw [he.collision, hd.collision, or_assoc]
    refine or_congr_right ⟨?_, ?_⟩
    · rintro (⟨px, py, hx, hy, hp, hb⟩ | ⟨px, py, hx, hy, hp, hm⟩)
      · exact ⟨px, py, hx, hy, hp, Bool.or_eq_true_iff.2 (.inl hb)⟩
      · exact ⟨px, py, hx, hy, kept hx hy hm ▸ hp, Bool.or_eq_true_iff.2 (.inr hm)⟩
    · rintro ⟨px, py, hx, hy, hp, hbits⟩
      rcases Bool.or_eq_true_iff.1 hbits with hb | hm
      · exact .inl ⟨px, py, hx, hy, hp, hb⟩
      · exact .inr ⟨px, py, hx, hy, (kept hx hy hm).trans hp, hm⟩

end stamps

/-! ## The parts of a drawing -/

section parts
variable (vx vy : Byte) {row : Nat} (b : Byte) (d : Drawing)

/-- One sprite bit (R201, R203). -/
theorem drawPixel_stamps (hrow : row < 32) {col : Nat} (hcol : col < 64) :
    Stamps vx vy (fun r c => decide (r = row) && decide (c = col) && b.getLsbD (7 - col)) d
      (drawPixel vx.toNat vy.toNat row b d col) := by
  rw [drawPixel]
  split
  case isFalse hbit => exact stamps_of_no_bits fun r c => by simp [hbit]
  case isTrue hbit =>
    have hits {px py : Nat} (hx : px < 64) (hy : py < 32) :=
      pixelIndex_eq_iff (vx := vx) (vy := vy) hrow hcol hx hy
    refine ⟨fun hx hy => ?_, ?_⟩
    · rw [pixel_toggle _ _ _ (pixelIndex_lt _ _)]
      simp only [hits hx hy, hbit, Bool.decide_and, Bool.and_true]
    · simp only [hbit, Bool.or_eq_true, Bool.and_eq_true, decide_eq_true_eq, and_true]
      refine or_congr_right ⟨fun hp => ?_, ?_⟩
      · have hx := Nat.mod_lt (vx.toNat + col) (show 0 < 64 by decide)
        have hy := Nat.mod_lt (vy.toNat + row) (show 0 < 32 by decide)
        exact ⟨_, _, hx, hy, hp, (hits hx hy).1 rfl⟩
      · rintro ⟨px, py, hx, hy, hp, hat⟩
        rwa [(hits hx hy).2 hat]

/-- The first `k` bits of a sprite row (R201). -/
theorem foldl_drawPixel_stamps (hrow : row < 32) {k : Nat} (hk : k ≤ 8) :
    Stamps vx vy (fun r c => decide (r = row) && decide (c < k) && b.getLsbD (7 - c)) d
      ((List.range k).foldl (drawPixel vx.toNat vy.toNat row b) d) := by
  induction k with
  | zero => exact stamps_of_no_bits fun r c => by simp
  | succ k ih =>
    rw [List.range_succ, List.foldl_append]
    refine ((ih (by omega)).trans (drawPixel_stamps vx vy b _ hrow (col := k) (by omega))
      ?disjoint).congr ?union
    case union =>
      intro r c
      rcases lt_trichotomy c k with h | rfl | h
      · simp [h, h.ne, h.trans k.lt_succ_self]
      · simp
      · simp [h.not_gt, h.ne', show ¬ c < k + 1 by omega]
    case disjoint =>
      intro r c h
      simp only [Bool.and_eq_true, decide_eq_true_eq] at h
      simp [h.1.2.ne]

/-- One sprite row (R201). -/
theorem drawRow_stamps (hrow : row < 32) :
    Stamps vx vy (fun r c => decide (r = row) && decide (c < 8) && b.getLsbD (7 - c)) d
      (drawRow vx.toNat vy.toNat row b d) :=
  foldl_drawPixel_stamps vx vy b d hrow le_rfl

/-- The sprite rows from `row` on (R201). -/
theorem drawRows_stamps (bs : List Byte) (hrows : row + bs.length ≤ 32) :
    Stamps vx vy (fun r c => decide (row ≤ r) && decide (c < 8) &&
      (bs.getD (r - row) 0).getLsbD (7 - c)) d (drawRows vx.toNat vy.toNat row bs d) := by
  induction bs generalizing row d with
  | nil => exact stamps_of_no_bits fun r c => by simp
  | cons b bs ih =>
    rw [List.length_cons] at hrows
    refine ((drawRow_stamps vx vy b d (row := row) (by omega)).trans
      (ih _ (row := row + 1) (by omega)) ?disjoint).congr ?union
    case union =>
      intro r c
      rcases lt_trichotomy r row with h | rfl | h
      · simp [h.not_ge, h.ne, show ¬ row + 1 ≤ r by omega]
      · simp
      · have hsub : r - row = r - (row + 1) + 1 := by omega
        simp [h.le, h.ne', Nat.succ_le_of_lt h, hsub]
    case disjoint =>
      intro r c h
      simp only [Bool.and_eq_true, decide_eq_true_eq] at h
      simp [h.1.1]

end parts

/-! ## The instructions -/

/-- Settles O37: CLS answers the cleared framebuffer. -/
theorem clsUnsetsEveryPixel : Obligations.ClsUnsetsEveryPixel := fun s =>
  ⟨rfl, s.setFb Framebuffer.clear, rfl, rfl,
    ⟨fun _ _ => rfl, rfl, ⟨rfl, rfl⟩, ⟨rfl, rfl⟩, ⟨rfl, rfl, rfl⟩, fun _ => rfl⟩,
    fun p _ => pixel_clear p⟩

/-- The screen with the `n` bytes from `I` drawn on it at `(vx, vy)`. -/
def State.drawn (s : State) (vx vy : Byte) (n : Nibble) : Drawing :=
  drawSprite vx.toNat vy.toNat (s.mem.readSpan s.i.toNat n.toNat) s.fb

/-- A drawing done: its framebuffer, and its collision in `VF`. -/
def State.finishDrawing (s : State) (d : Drawing) : State :=
  (s.setFb d.fb).setV regF (flagByte d.collision)

/-- The bytes DRW reads are the bits of its sprite. -/
theorem drawn_stamps (s : State) (vx vy : Byte) (n : Nibble) :
    Stamps vx vy (fun r c => decide (r < n.toNat) && decide (c < 8) &&
      (s.byteAt (s.i.toNat + r)).getLsbD (7 - c)) ⟨s.fb, false⟩ (s.drawn vx vy n) := by
  have := n.isLt
  refine (drawRows_stamps vx vy ⟨s.fb, false⟩ (s.mem.readSpan s.i.toNat n.toNat) (row := 0)
    (by rw [length_readSpan]; omega)).congr fun r c => ?_
  by_cases h : r < n.toNat
  · simp [h, State.byteAt]
  · simp [h]

/-- Each pixel of the drawn screen is XORed with the sprite bit on it (R201, R203). -/
theorem pixel_drawn (s : State) (vx vy : Byte) (n : Nibble) {px py : Nat} (hx : px < 64)
    (hy : py < 32) : (s.drawn vx vy n).fb.pixel (px + 64 * py) =
      (s.fb.pixel (px + 64 * py) != spriteHits s vx vy n px py) :=
  (drawn_stamps s vx vy n).pixel hx hy

/-- The drawing collides exactly if the sprite hits a set pixel (R203). -/
theorem collision_drawn (s : State) (vx vy : Byte) (n : Nibble) :
    (s.drawn vx vy n).collision = true ↔ ∃ px py, px < 64 ∧ py < 32 ∧
      s.fb.pixel (px + 64 * py) = true ∧ spriteHits s vx vy n px py = true :=
  (drawn_stamps s vx vy n).collision.trans (or_iff_right Bool.false_ne_true)

/-- A finished drawing changes the framebuffer and `VF` only. -/
theorem keptButFb_finishDrawing (s : State) (d : Drawing) :
    keptButFb [regF] s (s.finishDrawing d) :=
  ⟨fun r hr => (setV_getV _ regF r _).trans (if_neg (List.ne_of_not_mem_cons hr)), rfl,
    ⟨rfl, rfl⟩, ⟨rfl, rfl⟩, ⟨rfl, rfl, rfl⟩, fun _ => rfl⟩

/-- `VF` after a drawing is its collision (R203). -/
theorem finishDrawing_getV_regF (s : State) (d : Drawing) :
    (s.finishDrawing d).getV regF = flagByte d.collision := setV_getV_same _ _ _

@[simp] theorem finishDrawing_fb (s : State) (d : Drawing) : (s.finishDrawing d).fb = d.fb := rfl

theorem flagByte_eq_zero_or_one (c : Bool) : flagByte c = 0 ∨ flagByte c = 1 := by
  cases c <;> decide

theorem flagByte_eq_one {c : Bool} : flagByte c = 1 ↔ c = true := by cases c <;> decide

/-- DRW inside memory draws the `n` bytes from `I` (R201). -/
theorem exec_drw_of_fits {s : State} {x y : RegIdx} {n : Nibble}
    (h : n.toNat = 0 ∨ s.i.toNat + n.toNat ≤ memSize) :
    exec (.drw x y n) s = .next (s.finishDrawing (s.drawn (s.getV x) (s.getV y) n)) := by
  rw [exec, execDrw, effAddr_zero, load?_eq_some.2 ⟨h, rfl⟩]
  rfl

/-- DRW that leaves memory faults with the highest address it would touch (R257). -/
theorem exec_drw_of_exceeds {s : State} {x y : RegIdx} {n : Nibble}
    (h : 0 < n.toNat ∧ memSize < s.i.toNat + n.toNat) :
    exec (.drw x y n) s = .next (s.halt
      (.memOutOfRange (s.i.toNat + n.toNat - 1) s.instrAddr (encode (.drw x y n)))) := by
  rw [exec, execDrw, effAddr_zero, load?_eq_none.2 h]
  rfl

/-- A word of DRW (spec/30_encoding.md R83, R86). -/
theorem toNat_encode_drw (x y : RegIdx) (n : Nibble) :
    (encode (.drw x y n)).toNat = 0xD000 + 0x100 * x.val + 0x10 * y.val + n.toNat :=
  toNat_encR 0xD x y n

/-- Settles O38, by whether the sprite fits. -/
theorem drwXorsSpriteAndReportsCollision : Obligations.DrwXorsSpriteAndReportsCollision := by
  intro s x y n
  have hzero : n = 0 ↔ n.toNat = 0 := BitVec.toNat_inj.symm
  refine ⟨toNat_encode_drw x y n, fun hfits => ⟨_, exec_drw_of_fits ?_, rfl,
    keptButFb_finishDrawing s _, fun px py => pixel_drawn s _ _ n, ?_, ?_⟩,
    fun hout => exec_drw_of_exceeds ?_⟩
  · rw [hzero] at hfits
    rw [memSize]
    omega
  · rw [finishDrawing_getV_regF]
    exact flagByte_eq_zero_or_one _
  · rw [finishDrawing_getV_regF, flagByte_eq_one, collision_drawn]
  · rw [ne_eq, hzero] at hout
    rw [memSize]
    omega

/-! ## A sprite drawn twice -/

/-- A drawing leaves the sprite in memory and `I` as they are (decision D9, log entry 10). -/
theorem spriteHits_finishDrawing (s : State) (d : Drawing) (vx vy : Byte) (n : Nibble) (px py : Nat) :
    spriteHits (s.finishDrawing d) vx vy n px py = spriteHits s vx vy n px py := rfl

/-- The second drawing of a sprite XORs the same bits onto the pixels again (R201). -/
theorem drawn_twice_fb (s : State) (vx vy : Byte) (n : Nibble) :
    ((s.finishDrawing (s.drawn vx vy n)).drawn vx vy n).fb = s.fb := by
  refine eq_of_pixel_eq fun px py hx hy => ?_
  rw [pixel_drawn _ _ _ _ hx hy, finishDrawing_fb, pixel_drawn _ _ _ _ hx hy,
    spriteHits_finishDrawing, Bool.bne_assoc, bne_self_eq_false, Bool.bne_false]

/-- Under the sprite the first drawing has inverted the screen, so the second collides where it was unset
(R203). -/
theorem drawn_twice_collision (s : State) (vx vy : Byte) (n : Nibble) :
    ((s.finishDrawing (s.drawn vx vy n)).drawn vx vy n).collision = true ↔ ∃ px py,
      px < 64 ∧ py < 32 ∧ s.fb.pixel (px + 64 * py) = false ∧ spriteHits s vx vy n px py = true := by
  rw [collision_drawn]
  refine exists₂_congr fun px py => and_congr_right fun hx => and_congr_right fun hy =>
    and_congr_left fun hhit => ?_
  rw [spriteHits_finishDrawing] at hhit
  rw [finishDrawing_fb, pixel_drawn _ _ _ _ hx hy, hhit, Bool.bne_true, Bool.not_eq_true']

/-- Settles O39: the first flag is in no coordinate, so the second DRW draws the same sprite at one place. -/
theorem drwTwiceRestoresTheScreen : Obligations.DrwTwiceRestoresTheScreen := by
  intro s x y n hx hy hfits
  obtain ⟨hregs, -⟩ := keptButFb_finishDrawing s (s.drawn (s.getV x) (s.getV y) n)
  have hvx := hregs x (mt List.mem_singleton.1 hx)
  have hvy := hregs y (mt List.mem_singleton.1 hy)
  have second := exec_drw_of_fits (x := x) (y := y)
    (s := s.finishDrawing (s.drawn (s.getV x) (s.getV y) n)) (.inr hfits)
  rw [hvx, hvy] at second
  refine ⟨_, _, exec_drw_of_fits (.inr hfits), second, drawn_twice_fb s _ _ n, ?_⟩
  rw [finishDrawing_getV_regF, flagByte_eq_one, drawn_twice_collision]

end Sys2Proof.Machine
end

section
/-! SUPPORT. Keypad and timers (spec/45_keypad_timers.md): the words of the family as numbers, what a skip does for
each key index, what a write of the timers leaves unchanged, and the two ends of a wait for a key. -/

namespace Sys2Proof.Machine

/-! ## Skips on a key -/

/-- A word of the key-skip group, its low byte added to the opcode (spec/30_encoding.md R83, R86). -/
theorem toNat_encI_fourteen (x : RegIdx) (kk : Byte) :
    (encI 0xE x kk).toNat = 0xE000 + kk.toNat + 0x100 * x.val := by
  rw [toNat_encI, show (0xE : Nibble).toNat = 14 from rfl]
  omega

/-- Each of the sixteen keys answers (R220). -/
theorem keyDown?_val (s : State) (k : Fin 16) : s.keyDown? k.val = some s.key[k] :=
  keyDown?_eq_some.2 ⟨k.isLt, rfl⟩

/-- SKP where `Vx` names key `k` (R220). -/
theorem exec_skp_of_key {s : State} {x : RegIdx} {k : Fin 16} (h : (s.getV x).toNat = k.val) :
    exec (.skp x) s = .next (s.skipIf s.key[k]) := by
  rw [exec, execSkp, h, keyDown?_val]

/-- SKNP where `Vx` names key `k` (R221). -/
theorem exec_sknp_of_key {s : State} {x : RegIdx} {k : Fin 16} (h : (s.getV x).toNat = k.val) :
    exec (.sknp x) s = .next (s.skipIf (!s.key[k])) := by
  rw [exec, execSknp, h, keyDown?_val]

/-- SKP where `Vx` names no key (R220, spec/60_exceptions.md R258; decision D5, log entry 7). -/
theorem exec_skp_of_no_key {s : State} {x : RegIdx} (h : 15 < (s.getV x).toNat) :
    exec (.skp x) s =
      .next (s.halt (.keyIndexOutOfRange s.instrAddr (encode (.skp x)) (s.getV x))) := by
  rw [exec, execSkp, keyDown?_eq_none.2 h, raise]

/-- SKNP where `Vx` names no key (R221, R258; decision D5, log entry 7). -/
theorem exec_sknp_of_no_key {s : State} {x : RegIdx} (h : 15 < (s.getV x).toNat) :
    exec (.sknp x) s =
      .next (s.halt (.keyIndexOutOfRange s.instrAddr (encode (.sknp x)) (s.getV x))) := by
  rw [exec, execSknp, keyDown?_eq_none.2 h, raise]

/-- Settles O40, by whether `Vx` names a key: a skip under that key, or the fault. -/
theorem keySkipsTestTheKeyOrHalt : Obligations.KeySkipsTestTheKeyOrHalt := by
  refine fun s x => ⟨toNat_encI_fourteen x 0x9E, toNat_encI_fourteen x 0xA1,
    fun k h => ⟨exec_skip (exec_skp_of_key h) Iff.rfl, ?_⟩,
    fun h => ⟨exec_skp_of_no_key h, exec_sknp_of_no_key h⟩⟩
  have hup : (!s.key[k]) = true ↔ ¬ s.key[k] = true := by rw [Bool.not_eq_true', Bool.not_eq_true]
  simpa only [ite_not] using exec_skip (exec_sknp_of_key h) hup

/-! ## Timers -/

/-- A write of the timers changes no other element. -/
theorem keptButTimers_setDT_setST (s : State) (d b : Byte) :
    keptButTimers s ((s.setDT d).setST b) :=
  ⟨fun _ _ => rfl, rfl, ⟨rfl, rfl⟩, ⟨rfl, rfl, rfl⟩, rfl, fun _ => rfl⟩

/-- Settles O41: a write of `Vx`, or of one timer while the other takes the value it has. -/
theorem timerInstructionsMoveOneByte : Obligations.TimerInstructionsMoveOneByte := fun s x =>
  ⟨⟨toNat_encI_fifteen x 0x07, _, rfl, rfl, keptButRegs_setV s x _, setV_getV_same s x _⟩,
    ⟨toNat_encI_fifteen x 0x15, _, rfl, rfl, keptButTimers_setDT_setST s _ s.st, rfl, rfl⟩,
    ⟨toNat_encI_fifteen x 0x18, _, rfl, rfl, keptButTimers_setDT_setST s s.dt _, rfl, rfl⟩⟩

/-! ## The wait for a key -/

/-- LD Vx, K with `k` the lowest pressed key takes it (R223). -/
theorem exec_ldVxK_of_lowest {s : State} {k : Fin 16} (x : RegIdx) (hk : s.key[k] = true)
    (hlow : ∀ j : Fin 16, j < k → s.key[j] = false) :
    exec (.ldVxK x) s = .next (s.setV x (BitVec.ofNat 8 k.val)) := by
  have hlowest : s.lowestKey? = some k.val :=
    lowestKey?_eq_some.2 ⟨k.isLt, hk, fun j hj => hlow ⟨j, hj.trans k.isLt⟩ hj⟩
  rw [exec, execLdVxK, hlowest]

/-- LD Vx, K with no key pressed takes `pc` back to its own address (R223). -/
theorem exec_ldVxK_of_no_key {s : State} (x : RegIdx) (h : ∀ k : Fin 16, s.key[k] = false) :
    exec (.ldVxK x) s = .next (s.setPc s.instrAddr) := by
  rw [exec, execLdVxK, lowestKey?_eq_none.2 fun k hk => h ⟨k, hk⟩, State.instrAddr]

/-- `pc` taken back to the instruction's own address undoes the fetch (spec/40_fetch_execute_cycle.md R111). -/
theorem advance_setPc_instrAddr (s : State) : s.advance.setPc s.advance.instrAddr = s := by
  rw [advance_instrAddr]
  rfl

/-- Settles O42, by whether a key is pressed; with none the rewind undoes the fetch. -/
theorem keyWaitTakesLowestKeyOrRepeats : Obligations.KeyWaitTakesLowestKeyOrRepeats := by
  refine ⟨fun x => toNat_encI_fifteen x 0x0A, fun s x k hk hlow => ?_, fun s x hup => ⟨?_, ?_⟩⟩
  · refine ⟨_, exec_ldVxK_of_lowest x hk hlow, rfl, keptButRegs_setV s x _, ?_⟩
    rw [setV_getV_same, BitVec.toNat_ofNat, Nat.mod_eq_of_lt (k.isLt.trans (by decide))]
  · exact ⟨_, exec_ldVxK_of_no_key x hup, rfl, keptButRegs_setPc s _⟩
  · intro hrun hfetch
    calc step s = exec (.ldVxK x) s.advance := cycle_instr exec hrun hfetch (decodeWord_encode _)
      _ = .next (s.advance.setPc s.advance.instrAddr) := exec_ldVxK_of_no_key x hup
      _ = .next s := by rw [advance_setPc_instrAddr]

end Sys2Proof.Machine
end

section
/-! SUPPORT. The environment's events in a session (spec/60_exceptions.md R262, R266, R268): which of
them move, and what they do to a halted machine (R252). -/

namespace Sys2Proof.Machine

/-! ## TICK, SET_KEY and READ_FB -/

/-- TICK in the run moves to the ticked machine (R262). -/
theorem act_tick_of_loaded {p : Session} (h : p.phase = .loaded) :
    p.act .tick = .moved { p with machine := tick p.machine } .done := by
  simp only [Session.act, h]

/-- READ_FB in the run answers the pixels and keeps the session (R268). -/
theorem act_readFb_of_loaded {p : Session} (h : p.phase = .loaded) :
    p.act .readFb = .moved p (.pixels p.machine.fb) := by
  simp only [Session.act, h, readFb]

/-- SET_KEY with a key's index moves in every phase (R266). -/
theorem act_setKey_of_lt (p : Session) {k : Nat} (b : Bool) (h : k < 16) :
    p.act (.setKey k b) = .moved { p with machine := setKey k b p.machine } .done := by
  simp only [Session.act, keyIndexOk, h, decide_true, if_true]

/-- Settles O44: TICK is a write of the timers, each the value before it less 1. -/
theorem tickCountsBothTimersDown : Obligations.TickCountsBothTimersDown := fun s =>
  ⟨tickDown_toNat s.dt, tickDown_toNat s.st, rfl, keptButTimers_setDT_setST s _ _⟩

/-- Settles O45: SET_KEY is a write of `key` at the index given. -/
theorem setKeyWritesOneKey : Obligations.SetKeyWritesOneKey := by
  refine fun p k b hk => ⟨_, act_setKey_of_lt p b hk, fun j => ?_, rfl⟩
  simp only [setKey_key, Fin.getElem_fin, Vector.getElem_setIfInBounds, eq_comm]

/-- Settles O47: the pixels answered are `fb` itself. -/
theorem readFbReturnsThePixels : Obligations.ReadFbReturnsThePixels :=
  fun _ h => ⟨_, act_readFb_of_loaded h, fun _ _ => rfl⟩

/-! ## A halted machine -/

/-- STEP takes a running machine only (R117, R252). -/
theorem stepWith_next_running {byte : Byte} {s t : State} (h : stepWith byte s = .next t) :
    s.halted = none :=
  (cycle_next h).1

/-- An event that moves a halted machine is no STEP and keeps the latch (R252). -/
theorem act_moved_of_halted {p q : Session} {e : Event} {a : Response} {r : FaultRecord}
    (hr : p.machine.halted = some r) (h : p.act e = .moved q a) :
    q.machine.halted = some r ∧ ∀ b, Event.step b ≠ e := by
  obtain ⟨bytes, t, rfl, -, hl, rfl, -⟩ | ⟨_, rfl, -, -, rfl, -⟩ | ⟨b, t, -, -, hs, -, -⟩ |
    ⟨rfl, -, rfl, -⟩ | ⟨k, b, rfl, -, rfl, -⟩ | ⟨rfl, -, rfl, -⟩ := act_moved h
  · obtain ⟨-, rfl⟩ := load_eq_loaded.1 hl
    exact ⟨hr, nofun⟩
  · exact ⟨hr, nofun⟩
  · cases hr.symm.trans (stepWith_next_running hs)
  · exact ⟨hr, nofun⟩
  · exact ⟨hr, nofun⟩
  · exact ⟨hr, nofun⟩

/-- A run from a halted machine holds no STEP and keeps the latch (R252). -/
theorem run_of_halted {p q : Session} {es : List Event} {r : FaultRecord}
    (hr : p.machine.halted = some r) (h : p.run es = some q) :
    q.machine.halted = some r ∧ ∀ b, Event.step b ∉ es := by
  induction es generalizing p with
  | nil => cases h; exact ⟨hr, fun _ => List.not_mem_nil⟩
  | cons e es ih =>
    obtain ⟨p', _, hm, hrun⟩ := run_cons_eq_some.1 h
    obtain ⟨hp', he⟩ := act_moved_of_halted hr hm
    obtain ⟨hq, hes⟩ := ih hp' hrun
    exact ⟨hq, fun b => List.not_mem_cons_of_ne_of_not_mem (he b) (hes b)⟩

/-- Settles O49, by induction on the events; the other events need the phase only. -/
theorem haltedIsAbsorbing : Obligations.HaltedIsAbsorbing :=
  ⟨fun _ _ _ _ hr h => run_of_halted hr h,
    fun p _ _ hp => ⟨act_tick_of_loaded hp, fun _ b hk => act_setKey_of_lt p b hk,
      act_readFb_of_loaded hp⟩⟩

end Sys2Proof.Machine
end

section
/-! SUPPORT. The table of faults of spec/60_exceptions.md R250: when an instruction sets the latch, and
with which record. -/

namespace Sys2Proof.Machine

/-! ## An illegal word -/

/-- Settles O14: the word fetched is the big-endian one, and a word of R87 is rejected. -/
theorem illegalWordHalts : Obligations.IllegalWordHalts := by
  intro s w hh hpc hw hill
  have hword : w = wordOf (s.byteAt s.pc.toNat) (s.byteAt (s.pc.toNat + 1)) :=
    BitVec.eq_of_toNat_eq (by rw [hw, toNat_wordOf, Nat.mul_comm])
  exact cycle_illegal exec hh (fetch?_eq_some.2 ⟨hpc, hword⟩)
    ((illegalWordsAreExactlyTheListed w).2 hill)

/-! ## The latch after an instruction -/

/-- A skip keeps the latch. -/
@[simp] theorem skipIf_halted (s : State) (c : Bool) : (s.skipIf c).halted = s.halted := by
  rw [skipIf_eq, setPc_halted]

/-- A stack fault answers a next state only at its one value of `sp` (R253, R254). -/
theorem sp_eq_of_stackFault_next {bad : Byte} {r : FaultRecord} {s t : State}
    (h : stackFault bad r s = .next t) : s.sp = bad := by
  by_contra hne
  rw [stackFault_of_ne hne] at h
  cases h

/-- The latch of an instruction that faults under a test and otherwise answers with the latch clear. -/
theorem latch_eq_ite {i : Instr} {s t : State} {r : FaultRecord} {P : Prop}
    [Decidable P] (h : exec i s = .next t) (hfault : P → exec i s = .next (s.halt r))
    (hok : ¬ P → ∃ u, exec i s = .next u ∧ u.halted = none) :
    t.halted = if P then some r else none := by
  split
  · next hP => cases (hfault hP).symm.trans h; rfl
  · next hP =>
    obtain ⟨u, hu, hu'⟩ := hok hP
    cases hu.symm.trans h
    exact hu'

/-- An instruction that moves bytes sets the latch by the fourth row of R250, where that row's
test is the one the instruction makes (R257; decision D4, log entry 6). -/
theorem latch_eq_map_memFaultAddr {i : Instr} {s t : State} {addr : Nat} {P : Prop}
    [Decidable P] (haddr : memFaultAddr i s = if P then some addr else none)
    (h : exec i s = .next t)
    (hfault : P → exec i s = .next (s.halt (.memOutOfRange addr s.instrAddr (encode i))))
    (hok : ¬ P → ∃ u, exec i s = .next u ∧ u.halted = none) :
    t.halted = (memFaultAddr i s).map fun addr => .memOutOfRange addr s.instrAddr (encode i) := by
  rw [latch_eq_ite h hfault hok, haddr, apply_ite (Option.map _)]
  rfl

/-- The fourth row of R250 for DRW: a sprite of no rows touches nothing (R201, R257). -/
theorem memFaultAddr_drw (s : State) (x y : RegIdx) (n : Nibble) :
    memFaultAddr (.drw x y n) s =
      if 0 < n.toNat ∧ memSize < s.i.toNat + n.toNat then some (s.i.toNat + n.toNat - 1)
      else none := by
  by_cases h0 : n = 0
  · simp [memFaultAddr, h0]
  · have hpos : n.toNat ≠ 0 := fun e => h0 (BitVec.eq_of_toNat_eq e)
    have hlast : 0x0FFF < s.i.toNat + n.toNat - 1 ↔
        0 < n.toNat ∧ memSize < s.i.toNat + n.toNat := by
      rw [memSize]
      omega
    simp only [memFaultAddr, h0, if_false, hlast]

section latch

variable {s t : State} (hs : s.halted = none)
include hs

/-- RET sets the latch exactly where `sp = 0` (R253). -/
theorem exec_ret_latch (h : exec .ret s = .next t) :
    t.halted = if s.sp = 0 then some (.stackUnderflow s.instrAddr (encode .ret)) else none := by
  rw [exec, execRet] at h
  split at h
  · next w u hp =>
    obtain ⟨⟨hpos, -⟩, -, rfl⟩ := pop?_eq_some.1 hp
    cases h
    exact hs.trans (if_neg fun e => absurd (e ▸ hpos) (by decide)).symm
  · rw [if_pos (sp_eq_of_stackFault_next h), stackFault_next h, halt_halted]

/-- CALL sets the latch exactly where `sp = 16` (R254). -/
theorem exec_call_latch {nnn : Addr12} (h : exec (.call nnn) s = .next t) :
    t.halted =
      if s.sp = 16 then some (.stackOverflow s.instrAddr (encode (.call nnn))) else none := by
  rw [exec, execCall] at h
  split at h
  · next u hp =>
    obtain ⟨hlt, rfl⟩ := push?_eq_some.1 hp
    cases h
    exact hs.trans (if_neg fun e => absurd (e ▸ hlt) (by decide)).symm
  · rw [if_pos (sp_eq_of_stackFault_next h), stackFault_next h, halt_halted]

/-- SKP sets the latch exactly where `Vx` names no key (R258; decision D5, log entry 7). -/
theorem exec_skp_latch {x : RegIdx} (h : exec (.skp x) s = .next t) :
    t.halted = if 15 < (s.getV x).toNat then
      some (.keyIndexOutOfRange s.instrAddr (encode (.skp x)) (s.getV x)) else none :=
  latch_eq_ite h exec_skp_of_no_key fun hk =>
    ⟨_, exec_skp_of_key (k := ⟨(s.getV x).toNat, Nat.lt_succ_of_le (not_lt.1 hk)⟩) rfl,
      (skipIf_halted s _).trans hs⟩

/-- SKNP sets the latch exactly where `Vx` names no key (R258; decision D5, log entry 7). -/
theorem exec_sknp_latch {x : RegIdx} (h : exec (.sknp x) s = .next t) :
    t.halted = if 15 < (s.getV x).toNat then
      some (.keyIndexOutOfRange s.instrAddr (encode (.sknp x)) (s.getV x)) else none :=
  latch_eq_ite h exec_sknp_of_no_key fun hk =>
    ⟨_, exec_sknp_of_key (k := ⟨(s.getV x).toNat, Nat.lt_succ_of_le (not_lt.1 hk)⟩) rfl,
      (skipIf_halted s _).trans hs⟩

/-- The latch after an instruction that the fetch found at `s.pc` (R250). -/
theorem exec_latch {w : Word} {i : Instr} (hf : s.fetch? = some w) (hd : decodeWord w = .instr i)
    (h : exec i s.advance = .next t) : t.halted = faultOf s := by
  obtain rfl := encodeOfDecode w i hd
  have ha : s.advance.halted = none := hs
  simp only [faultOf, hf, hd]
  rw [← advance_instrAddr s]
  cases i with
  | ret => exact exec_ret_latch ha h
  | call nnn => exact exec_call_latch ha h
  | skp x => exact exec_skp_latch ha h
  | sknp x => exact exec_sknp_latch ha h
  | drw x y n =>
    exact latch_eq_map_memFaultAddr (memFaultAddr_drw _ x y n) h exec_drw_of_exceeds fun hP =>
      ⟨_, exec_drw_of_fits (by omega), hs⟩
  | ldBVx x =>
    exact latch_eq_map_memFaultAddr rfl h exec_ldBVx_of_exceeds fun hP =>
      ⟨_, exec_ldBVx_of_fits (not_lt.1 hP), hs⟩
  | storeRegs x =>
    exact latch_eq_map_memFaultAddr rfl h exec_storeRegs_of_exceeds fun hP =>
      ⟨_, exec_storeRegs_of_fits (not_lt.1 hP), hs⟩
  | loadRegs x =>
    exact latch_eq_map_memFaultAddr rfl h exec_loadRegs_of_exceeds fun hP =>
      ⟨_, exec_loadRegs_of_fits (not_lt.1 hP), hs⟩
  | ldVxK x => obtain ⟨k, -, rfl⟩ | ⟨-, rfl⟩ := execLdVxK_next h <;> exact hs
  | seImm _ _ | sneImm _ _ | seReg _ _ | sneReg _ _ => cases h; exact (skipIf_halted _ _).trans hs
  | _ => cases h; exact hs

end latch

/-- Settles O17, by what lies at `pc`: nothing to fetch, an illegal word, or an instruction. -/
theorem faultsAreTheSixOfTheTable : Obligations.FaultsAreTheSixOfTheTable := by
  intro s t h
  obtain ⟨hs, ⟨hf, rfl⟩ | ⟨w, e, hf, hd, rfl⟩ | ⟨w, i, hf, hd, hi⟩⟩ := cycle_next h
  · simp only [faultOf, hf, halt_halted]
  · simp only [faultOf, hf, hd, halt_halted]
  · exact exec_latch hs hf hd hi

end Sys2Proof.Machine
end

section
/-! SUPPORT. The idle loop and the boot order of a session (spec/70_reset_and_hazards.md R290 to R295). -/

namespace Sys2Proof.Machine

/-- Settles O43: the jump takes `pc` back to the instruction's own address, which undoes the fetch. -/
theorem idleLoopIsAFixedPoint : Obligations.IdleLoopIsAFixedPoint := by
  rintro s ⟨hrun, nnn, hfetch, hpc⟩
  have htarget : zextAddr nnn = s.advance.instrAddr :=
    BitVec.eq_of_toNat_eq (by rw [toNat_zextAddr, advance_instrAddr, hpc])
  calc step s = exec (.jp nnn) s.advance := cycle_instr exec hrun hfetch (decodeWord_encode _)
    _ = .next (s.advance.setPc (zextAddr nnn)) := rfl
    _ = .next s := by rw [htarget, advance_setPc_instrAddr]

/-! ## Which events move -/

/-- A machine that CREATE answers begins a session (R290, R293). -/
theorem start_of_create_eq_some {c : Config} {s : State} (h : create c = some s) :
    Session.start c = .moved { machine := s, phase := .created } .done := by
  rw [Session.start, h]

/-- A LOAD that succeeds takes the created session to its run (R293; spec/20_memory.md R66). -/
theorem act_load_of_loaded {p : Session} {bytes : List Byte} {t : State} (hp : p.phase = .created)
    (h : load bytes p.machine = .loaded t) :
    p.act (.load bytes) = .moved { machine := t, phase := .loaded } .done := by
  simp only [Session.act, hp, Session.actLoad, h]

/-- With the step's byte given, too, every instruction answers wherever `sp` is a depth of the stack. -/
theorem execDrawing_answers (byte : Byte) (i : Instr) {s : State} (hsp : s.sp.toNat ≤ 16) :
    ∃ t, execDrawing byte i s = .next t := by
  obtain ⟨x, kk, -, e⟩ | ⟨-, e⟩ := execDrawing_cases byte i s
  · exact ⟨_, e⟩
  · exact e ▸ exec_answers i hsp

/-- STEP answers on a running machine whose `sp` is a depth of the stack, whatever its byte
(spec/40_fetch_execute_cycle.md R117). -/
theorem stepWith_answers (byte : Byte) {s : State} (hh : s.halted = none) (hsp : s.sp.toNat ≤ 16) :
    ∃ t, stepWith byte s = .next t := by
  obtain ⟨-, e⟩ | ⟨w, d, -, -, e⟩ | ⟨w, i, -, -, e⟩ := cycle_running (execDrawing byte) hh
  · exact ⟨_, e⟩
  · exact ⟨_, e⟩
  · obtain ⟨t, ht⟩ := execDrawing_answers byte i (s := s.advance) hsp
    exact ⟨t, e.trans ht⟩

/-- A STEP that answers a next state moves the session in its run (R293). -/
theorem act_step_of_next {p : Session} {b : Byte} {t : State} (hp : p.phase = .loaded)
    (h : stepWith b p.machine = .next t) :
    p.act (.step b) = .moved { p with machine := t } .done := by
  simp only [Session.act, hp, Session.actStep, h]

/-- Settles O54, event by event in the boot order. -/
theorem sessionMovesInTheBootOrder : Obligations.SessionMovesInTheBootOrder := by
  refine ⟨fun c hfont hpc => ?create, fun p bytes hp hfits => ?load, fun p b hp hh hsp => ?step,
    fun p hp => ⟨act_tick_of_loaded hp, act_readFb_of_loaded hp⟩,
    fun p _ b hk => act_setKey_of_lt p b hk⟩
  case create =>
    have hc : create c = some (createdState c) := create_eq_some.2 ⟨⟨hfont, hpc⟩, rfl⟩
    exact ⟨_, hc, start_of_create_eq_some hc⟩
  case load =>
    have hl : load bytes p.machine = .loaded _ := load_eq_loaded.2 ⟨hfits, rfl⟩
    exact ⟨_, hl, act_load_of_loaded hp hl⟩
  case step =>
    obtain ⟨t, ht⟩ := stepWith_answers b hh hsp
    exact ⟨t, ht, act_step_of_next hp ht⟩

end Sys2Proof.Machine
end
